-- ==== Sys2Proof/Word.lean ====
section
/-! DEFINITION. The word types of the block (10_state.md, 20_memory.md): plain bit vectors, one name for each width
the spec gives a register, an operand or an output. -/

namespace Sys2Proof

/-- One PIC register or port byte (rules R15, R56). -/
abbrev Byte := BitVec 8

/-- One I/O APIC register access (rules R42, R43). -/
abbrev Word := BitVec 32

/-- One redirection entry (rule R28). -/
abbrev Entry := BitVec 64

/-- A pin of one PIC channel, 0 to 7 (rule R14). -/
abbrev Pin := BitVec 3

/-- A trace tag: the spec's own choice is 32 bits (rules R23, R72, decision D5). -/
abbrev Tag := BitVec 32

/-- An I/O port number (rule R38). -/
abbrev Port := BitVec 16

/-- A physical address of the platform (rule R39). -/
abbrev PhysAddr := BitVec 64

/-- The largest `pinCount` of any variant (rule R34): the width that holds every I/O APIC bitmap. -/
abbrev maxPins : Nat := 24

end Sys2Proof
end

