-- ==== Sys2Proof/Config.lean ====
section
/-! DEFINITION. What is fixed when the block is built (00_scope.md rule R7), and the two free values of the model:
the Delivery Target's answer and the IOMMU hook's answer, which the spec leaves to the world outside the block.
The values of the parameters stand in Machine/Parameters.lean. -/

namespace Sys2Proof

/-- Rule R34: the variant record, "fixed at construction, not guest-visible as a register". `lastIndex` is derived
from `pinCount` (`VariantRecord.lastIndex`). -/
structure VariantRecord where
  pinCount : Nat
  idMask : Byte
  versionByte : Byte
  hasArbReg : Bool
  hasEoiReg : Bool
  rteWriteMask : Entry
  rteReadMask : Entry
  deriving DecidableEq, Repr

/-- Rule R34 and decision D1: the identification value has 4 bits or 8 bits. -/
inductive IdWidth where
  | four
  | eight
  deriving DecidableEq, Repr

/-- The parameter `VAR16_FIELDS` of decision D1: what the spec leaves OPEN of the 16-pin variant. -/
structure Pin16Fields where
  idWidth : IdWidth
  versionByte : Byte
  hasArbReg : Bool
  hasEoiReg : Bool
  rteWriteMask : Entry
  rteReadMask : Entry
  deriving DecidableEq, Repr

/-- The parameter `VARDMAR_MASKS` of decision D1: what the spec leaves OPEN of the DMA-remap-capable variant. -/
structure DmarMasks where
  rteWriteMask : Entry
  rteReadMask : Entry
  deriving DecidableEq, Repr

/-- Rule R3, decision D1: the four supported variants; the two with OPEN fields take them as arguments. -/
inductive IoApicVariant where
  | ich9
  | i82093aa
  | pin16 (fields : Pin16Fields)
  | dmar (masks : DmarMasks)
  deriving DecidableEq, Repr

/-- Rule R128: what one attempt passes to the Delivery Target. One-bit fields are Booleans. -/
structure Descriptor where
  vector : Byte
  deliveryMode : BitVec 3
  destinationMode : Bool
  polarity : Bool
  triggerMode : Bool
  destination : Byte
  extendedDestination : Byte
  tag : Tag
  deriving DecidableEq, Repr

/-- Rule R130: what the Delivery Target answers to one attempt. -/
inductive Answer where
  | accept
  | discard
  deriving DecidableEq, Repr, Inhabited

/-- Rule R129, decision D26: the parameter `REMAP`. Its default is the identity; any other hook is an oracle,
whose answers are `Config.remapAnswer`. -/
inductive RemapHook where
  | identity
  | oracle
  deriving DecidableEq, Repr

/-- Rules R14, R25, R141: a pin as a SetLine call names it, on the controller that owns it. -/
inductive WiredPin where
  | picLine (line : BitVec 16)
  | ioApicPin (pin : Byte)
  deriving DecidableEq, Repr

/-- Rules R141, R144: one source drives one pin. A source wired to both controllers has two of these. The spec names no
source, so a source is a number (log entry 22). -/
structure Wire where
  source : Nat
  pin : WiredPin
  deriving DecidableEq, Repr

/-- Rule R7: the parameters of the block. They never change while it runs. `ELCR_MASK` is held in each channel
(`PicChannel.elcrMask`, as rule R15 lists it), and `TAG_SAT` is a constant of Machine/Operands.lean. -/
structure Params where
  variant : IoApicVariant
  masterBase : Port
  slaveBase : Port
  masterElcrPort : Port
  slaveElcrPort : Port
  ioapicBase : PhysAddr
  ioapicResetId : Byte
  remap : RemapHook
  /-- `NCPU`: "informational only; no rule reads it" (rule R7). -/
  ncpu : Nat
  /-- `WIRING`: "which source drives which pin of which controller". OPEN (decision D37), and no rule reads it: a call names
  its pin, and "a source wired to both raises each pin by a separate call" (rule R144). -/
  wiring : List Wire
  deriving DecidableEq, Repr

/-- FREE VALUE (rule R130, decision D27; log entry 1). The Delivery Target's answer to the `n`-th call of the
delivery path. It has no body: a claim that holds, holds whatever the target answers. -/
opaque Config.targetAnswer : Nat → Answer

/-- FREE VALUE (rule R129, decision D26; log entry 2). What an IOMMU hook that is not the identity makes of a
descriptor at the `n`-th call: a rewritten descriptor, or `none` for a discard. It has no body. -/
opaque Config.remapAnswer : Nat → Descriptor → Option Descriptor

end Sys2Proof
end

