-- ==== Sys2Proof/Machine/Parameters.lean ====
section
/-! DEFINITION. The values of the parameters (rule R34, 92_eei_decisions.md D1 to D4) and what makes a choice of
parameters a legal one. -/

namespace Sys2Proof

/-- Decision D1, `VAR_ICH9`: the default variant. -/
def VariantRecord.ich9 : VariantRecord :=
  { pinCount := 24, idMask := 0xFF, versionByte := 0x20, hasArbReg := false, hasEoiReg := true,
    rteWriteMask := 0xFFFF00000001AFFF, rteReadMask := 0xFFFF00000001FFFF }

/-- Decision D1, `VAR_82093AA`: the "older variant". -/
def VariantRecord.i82093aa : VariantRecord :=
  { pinCount := 24, idMask := 0x0F, versionByte := 0x11, hasArbReg := true, hasEoiReg := false,
    rteWriteMask := 0xFF0000000001AFFF, rteReadMask := 0xFF0000000001FFFF }

/-- Rule R34: `idMask` is 0x0F for a 4-bit identification and 0xFF for an 8-bit one. -/
def IdWidth.mask : IdWidth → Byte
  | .four => 0x0F
  | .eight => 0xFF

/-- Rule R34 and decision D1: the record of each variant. -/
def IoApicVariant.record : IoApicVariant → VariantRecord
  | .ich9 => VariantRecord.ich9
  | .i82093aa => VariantRecord.i82093aa
  | .pin16 f =>
    { pinCount := 16, idMask := f.idWidth.mask, versionByte := f.versionByte, hasArbReg := f.hasArbReg,
      hasEoiReg := f.hasEoiReg, rteWriteMask := f.rteWriteMask, rteReadMask := f.rteReadMask }
  | .dmar m =>
    { VariantRecord.ich9 with rteWriteMask := m.rteWriteMask, rteReadMask := m.rteReadMask }

/-- Rule R34: `lastIndex = 0x10 + 2·pinCount − 1`. -/
def VariantRecord.lastIndex (v : VariantRecord) : Nat := 0x10 + 2 * v.pinCount - 1

/-- The variant record in force. -/
def Params.record (p : Params) : VariantRecord := p.variant.record

/-- Rule R34: "Every variant keeps bits 12 and 14 out of `rteWriteMask`". -/
def VariantRecord.keepsReadOnlyBits (v : VariantRecord) : Bool :=
  !v.rteWriteMask.getLsbD 12 && !v.rteWriteMask.getLsbD 14

/-- The six ports of rule R38, in the order of its table. -/
def Params.ports (p : Params) : List Port :=
  [p.masterBase, p.masterBase + 1, p.slaveBase, p.slaveBase + 1, p.masterElcrPort, p.slaveElcrPort]

/-- A legal choice of parameters: six different ports (rule R38), a 4 KiB-aligned page (rule R39), and a write mask
that leaves the two read-only bits out (rule R34). -/
def Params.wellFormed (p : Params) : Bool :=
  decide p.ports.Nodup && (p.ioapicBase.extractLsb' 0 12 == 0) && p.record.keepsReadOnlyBits

/-- Rule R7, decisions D1, D2, D4, D17, D26: the default parameters. `IOAPIC_RESET_ID` is OPEN and "a model that
needs one value uses 0" (rule R157; log entry 3); `NCPU` is read by no rule (log entry 4); and
`WIRING` is OPEN and read by no rule (log entry 22). -/
def Params.default : Params :=
  { variant := .ich9, masterBase := 0x20, slaveBase := 0xA0, masterElcrPort := 0x4D0, slaveElcrPort := 0x4D1,
    ioapicBase := 0xFEC00000, ioapicResetId := 0, remap := .identity, ncpu := 1, wiring := [] }

/-- Decision D3: the default `ELCR_MASK[0]`. -/
def elcrMaskMaster : Byte := 0xF8

/-- Decision D3: the default `ELCR_MASK[1]`. -/
def elcrMaskSlave : Byte := 0xDE

end Sys2Proof
end

