-- ==== Sys2Proof/Syntax.lean ====
section
/-! DEFINITION. The operations of the block: one constructor for each row of spec/opcode_table.json. Bits that the spec
ignores stay operands of the constructor, so that no bit of an encoding is lost between decoding and encoding. -/

namespace Sys2Proof

/-- Rule R14: the two 8259-compatible channels, `c = 0` (master) and `c = 1` (slave). -/
inductive ChannelId where
  | master
  | slave
  deriving DecidableEq, Repr

/-- Rule R72: the level of a PIC SetLine call. -/
inductive PicLevel where
  | low
  | high
  | flipFlop
  deriving DecidableEq, Repr

/-- Rule R72: the level of an I/O APIC SetLine call. -/
inductive IoLevel where
  | low
  | high
  deriving DecidableEq, Repr

/-- Rule R135: the fields of rule R128 except `tag`, as a SendMsi call supplies them. -/
structure MsiFields where
  vector : Byte
  deliveryMode : BitVec 3
  destinationMode : Bool
  polarity : Bool
  triggerMode : Bool
  destination : Byte
  extendedDestination : Byte
  deriving DecidableEq, Repr

/-- The operations. The channel `c` of a PIC access is the port's (41_pic_ports.md); the pin of a redirection-table
access is the selected index's (rule R67). -/
inductive Instr where
  /-- R91: the fields of rule R58; `a7_5` is ignored. -/
  | icw1 (c : ChannelId) (ic4 sngl adi ltim : Bool) (a7_5 : BitVec 3)
  /-- R92; `l` is ignored. -/
  | ocw2RotateAeoiClear (c : ChannelId) (l : Pin)
  /-- R93; `l` is ignored. -/
  | ocw2Nseoi (c : ChannelId) (l : Pin)
  /-- R94; `l` is ignored. -/
  | ocw2Nop (c : ChannelId) (l : Pin)
  /-- R95. -/
  | ocw2Seoi (c : ChannelId) (pin : Pin)
  /-- R96; `l` is ignored. -/
  | ocw2RotateAeoiSet (c : ChannelId) (l : Pin)
  /-- R97; `l` is ignored. -/
  | ocw2Rnseoi (c : ChannelId) (l : Pin)
  /-- R98. -/
  | ocw2Setprio (c : ChannelId) (pin : Pin)
  /-- R99. -/
  | ocw2Rseoi (c : ChannelId) (pin : Pin)
  /-- R100: the fields of rule R60; `b7` is ignored. -/
  | ocw3 (c : ChannelId) (ris rr poll smm esmm b7 : Bool)
  /-- R101. -/
  | ocw1 (c : ChannelId) (v : Byte)
  /-- R102. -/
  | icw2 (c : ChannelId) (v : Byte)
  /-- R103; `v` is ignored. -/
  | icw3 (c : ChannelId) (v : Byte)
  /-- R104: the fields of rule R63; `upm`, `ms`, `buf` and `b7_5` are ignored. -/
  | icw4 (c : ChannelId) (upm aeoi ms buf sfnm : Bool) (b7_5 : BitVec 3)
  /-- R106. -/
  | rdIrrIsr (c : ChannelId)
  /-- R107. -/
  | rdPoll (c : ChannelId)
  /-- R108. -/
  | rdImr (c : ChannelId)
  /-- R109. -/
  | elcrWr (c : ChannelId) (v : Byte)
  /-- R110. -/
  | elcrRd (c : ChannelId)
  /-- R112. -/
  | mmioIdxRd
  /-- R111. -/
  | mmioIdxWr (value : Word)
  /-- R115. -/
  | idRd
  /-- R116. -/
  | idWr (value : Word)
  /-- R117. -/
  | verRd
  /-- R118; `value` is ignored. -/
  | verWr (value : Word)
  /-- R119. -/
  | arbRd
  /-- R120; `value` is ignored. -/
  | arbWr (value : Word)
  /-- R121, the low word. -/
  | rteLoRd (pin : Nat)
  /-- R122, the low word. -/
  | rteLoWr (pin : Nat) (value : Word)
  /-- R121, the high word. -/
  | rteHiRd (pin : Nat)
  /-- R122, the high word. -/
  | rteHiWr (pin : Nat) (value : Word)
  /-- R124. -/
  | unusedRd
  /-- R125; `value` is dropped. -/
  | unusedWr (value : Word)
  /-- R126. -/
  | mmioEoiWr (value : Word)
  /-- R127, a read at the page offset `off`. -/
  | mmioOtherRd (off : BitVec 12)
  /-- R127, a write at the page offset `off`; `value` is dropped. -/
  | mmioOtherWr (off : BitVec 12) (value : Word)
  /-- R77. -/
  | picSetline (line : BitVec 16) (level : PicLevel) (tag : Tag)
  /-- R87. -/
  | picAck
  /-- R133. -/
  | ioSetline (pin : Byte) (level : IoLevel) (tag : Tag) (isFlipFlop : Bool)
  /-- R134. -/
  | ioSeteoi (vector : Byte)
  /-- R135. -/
  | ioSendmsi (fields : MsiFields) (tag : Tag)
  /-- R156, R157. -/
  | reset
  deriving DecidableEq, Repr

end Sys2Proof
end

