-- ==== Sys2Proof/WellFormed.lean ====
section
/-! DEFINITION. Which operations exist on a block with a given variant record: an entry of a missing pin, a register the
variant lacks, or an "other" offset that names a register is ill-formed (rules R34, R66, R67, R127). -/

namespace Sys2Proof

/-- Rule R66: an aligned offset of the page that names neither the index nor the data register. -/
def otherOffset (off : BitVec 12) : Bool :=
  (off.extractLsb' 0 2 == 0) && (off != 0x00) && (off != 0x10)

/-- Rule R66: offset 0x40 with `hasEoiReg = 1`. -/
def eoiOffset (v : VariantRecord) (off : BitVec 12) : Bool := (off == 0x40) && v.hasEoiReg

/-- The operation exists on a block of variant record `v`. -/
def Instr.wellFormed (v : VariantRecord) : Instr → Bool
  | .arbRd => v.hasArbReg
  | .arbWr _ => v.hasArbReg
  | .rteLoRd pin => decide (pin < v.pinCount)
  | .rteLoWr pin _ => decide (pin < v.pinCount)
  | .rteHiRd pin => decide (pin < v.pinCount)
  | .rteHiWr pin _ => decide (pin < v.pinCount)
  | .mmioEoiWr _ => v.hasEoiReg
  | .mmioOtherRd off => otherOffset off
  | .mmioOtherWr off _ => otherOffset off && !eoiOffset v off
  | .icw1 .. => true
  | .ocw2RotateAeoiClear .. => true
  | .ocw2Nseoi .. => true
  | .ocw2Nop .. => true
  | .ocw2Seoi .. => true
  | .ocw2RotateAeoiSet .. => true
  | .ocw2Rnseoi .. => true
  | .ocw2Setprio .. => true
  | .ocw2Rseoi .. => true
  | .ocw3 .. => true
  | .ocw1 .. => true
  | .icw2 .. => true
  | .icw3 .. => true
  | .icw4 .. => true
  | .rdIrrIsr _ => true
  | .rdPoll _ => true
  | .rdImr _ => true
  | .elcrWr .. => true
  | .elcrRd _ => true
  | .mmioIdxRd => true
  | .mmioIdxWr _ => true
  | .idRd => true
  | .idWr _ => true
  | .verRd => true
  | .verWr _ => true
  | .unusedRd => true
  | .unusedWr _ => true
  | .picSetline .. => true
  | .picAck => true
  | .ioSetline .. => true
  | .ioSeteoi _ => true
  | .ioSendmsi .. => true
  | .reset => true

end Sys2Proof
end

