-- ==== Sys2Proof/Decode.lean ====
section
/-! DEFINITION. From a bus access or a side-band call to an operation (30_encoding.md rules R56 to R74), total and
rejecting by name, and back: `encode` writes the access of an operation from the same tables. The length of an encoding
is fixed by the port or the offset (rule R56), and four pieces of state change how an access decodes (rule R74):
`DecodeMode` holds them. -/

namespace Sys2Proof

/-- Rules R38, R39, R41: what an agent does to the block. A bus access carries its bytes in bus order (the byte at the
lowest address first) or its size in bytes; a side-band call carries typed arguments (rule R72). -/
inductive Transaction where
  | portWrite (port : Port) (bytes : List Byte)
  | portRead (port : Port) (size : Nat)
  | mmioWrite (addr : PhysAddr) (bytes : List Byte)
  | mmioRead (addr : PhysAddr) (size : Nat)
  | picSetLine (line : BitVec 16) (level : PicLevel) (tag : Tag)
  | picAck
  | ioSetLine (pin : Byte) (level : IoLevel) (tag : Tag) (isFlipFlop : Bool)
  | ioSetEoi (vector : Byte)
  | ioSendMsi (fields : MsiFields) (tag : Tag)
  | reset
  deriving DecidableEq, Repr

/-- Why an access is no operation of the block. -/
inductive Reject where
  /-- Rule R38: the port is none of the six. -/
  | portNotDecoded
  /-- Rule R39: the address lies outside the I/O APIC page. -/
  | addressNotDecoded
  /-- Rules R44, R140: an access to one of the six ports that is not one byte. -/
  | portAccessNotByte
  /-- Rules R43, R140: an access to the page that is not 4 bytes wide and 4-byte aligned. -/
  | mmioAccessNotAlignedWord
  deriving DecidableEq, Repr

/-- Rule R74: the parameters and the four pieces of state that decoding reads. -/
structure DecodeMode where
  params : Params
  masterStep : BitVec 2
  slaveStep : BitVec 2
  masterPoll : Bool
  slavePoll : Bool
  selectedIndex : Byte
  deriving DecidableEq, Repr

/-- The channel's `initStep`. -/
def DecodeMode.initStep (m : DecodeMode) : ChannelId → BitVec 2
  | .master => m.masterStep
  | .slave => m.slaveStep

/-- The channel's `pollModeActive`. -/
def DecodeMode.poll (m : DecodeMode) : ChannelId → Bool
  | .master => m.masterPoll
  | .slave => m.slavePoll

/-- What a port of the block is (rule R38). -/
inductive PortRole where
  | command (c : ChannelId)
  | data (c : ChannelId)
  | elcr (c : ChannelId)
  deriving DecidableEq, Repr

/-- The port numbers of rule R38. -/
def portOf (p : Params) : PortRole → Port
  | .command .master => p.masterBase
  | .data .master => p.masterBase + 1
  | .command .slave => p.slaveBase
  | .data .slave => p.slaveBase + 1
  | .elcr .master => p.masterElcrPort
  | .elcr .slave => p.slaveElcrPort

/-- Rule R38, read from the port number. -/
def portRole (p : Params) (port : Port) : Option PortRole :=
  if port = p.masterBase then some (.command .master)
  else if port = p.masterBase + 1 then some (.data .master)
  else if port = p.slaveBase then some (.command .slave)
  else if port = p.slaveBase + 1 then some (.data .slave)
  else if port = p.masterElcrPort then some (.elcr .master)
  else if port = p.slaveElcrPort then some (.elcr .slave)
  else none

/-- Rule R57: a byte written to port+0; the first match wins. The fields are those of rules R58, R59 and R60. -/
def decodeCommand (c : ChannelId) (v : Byte) : Instr :=
  if v.getLsbD 4 then
    .icw1 c (v.getLsbD 0) (v.getLsbD 1) (v.getLsbD 2) (v.getLsbD 3) (v.extractLsb' 5 3)
  else if v.getLsbD 3 then
    .ocw3 c (v.getLsbD 0) (v.getLsbD 1) (v.getLsbD 2) (v.getLsbD 5) (v.getLsbD 6) (v.getLsbD 7)
  else
    match (v.extractLsb' 5 3).toNat with
    | 0 => .ocw2RotateAeoiClear c (v.extractLsb' 0 3)
    | 1 => .ocw2Nseoi c (v.extractLsb' 0 3)
    | 2 => .ocw2Nop c (v.extractLsb' 0 3)
    | 3 => .ocw2Seoi c (v.extractLsb' 0 3)
    | 4 => .ocw2RotateAeoiSet c (v.extractLsb' 0 3)
    | 5 => .ocw2Rnseoi c (v.extractLsb' 0 3)
    | 6 => .ocw2Setprio c (v.extractLsb' 0 3)
    | _ => .ocw2Rseoi c (v.extractLsb' 0 3)

/-- Rule R61: a byte written to port+1, decoded by the channel's `initStep`; the ICW4 fields are those of rule R63. -/
def decodeData (step : BitVec 2) (c : ChannelId) (v : Byte) : Instr :=
  match step.toNat with
  | 0 => .ocw1 c v
  | 1 => .icw2 c v
  | 2 => .icw3 c v
  | _ => .icw4 c (v.getLsbD 0) (v.getLsbD 1) (v.getLsbD 2) (v.getLsbD 3) (v.getLsbD 4) (v.extractLsb' 5 3)

/-- Rules R38, R57, R61, R64: a one-byte write to a port of the block. -/
def decodePortWrite (m : DecodeMode) (role : PortRole) (v : Byte) : Instr :=
  match role with
  | .command c => decodeCommand c v
  | .data c => decodeData (m.initStep c) c v
  | .elcr c => .elcrWr c v

/-- Rules R38, R106, R107, R108, R110: a one-byte read of a port of the block. -/
def decodePortRead (m : DecodeMode) (role : PortRole) : Instr :=
  match role with
  | .command c => if m.poll c then .rdPoll c else .rdIrrIsr c
  | .data c => .rdImr c
  | .elcr c => .elcrRd c

/-- The registers of the indirect space (rule R40). -/
inductive IndirectReg where
  | id
  | ver
  | arb
  | rteLo (pin : Nat)
  | rteHi (pin : Nat)
  | unused
  deriving DecidableEq, Repr

/-- Rule R67: the register that an index selects. -/
def indirectReg (v : VariantRecord) (i : Byte) : IndirectReg :=
  if i = 0x00 then .id
  else if i = 0x01 then .ver
  else if i = 0x02 ∧ v.hasArbReg = true then .arb
  else if 0x10 ≤ i.toNat ∧ i.toNat ≤ v.lastIndex then
    if i.toNat % 2 = 0 then .rteLo ((i.toNat - 0x10) / 2) else .rteHi ((i.toNat - 0x10) / 2)
  else .unused

/-- Rules R67, R113: a read of the data register. -/
def decodeDataRead (v : VariantRecord) (i : Byte) : Instr :=
  match indirectReg v i with
  | .id => .idRd
  | .ver => .verRd
  | .arb => .arbRd
  | .rteLo pin => .rteLoRd pin
  | .rteHi pin => .rteHiRd pin
  | .unused => .unusedRd

/-- Rules R67, R114: a write of the data register. -/
def decodeDataWrite (v : VariantRecord) (i : Byte) (value : Word) : Instr :=
  match indirectReg v i with
  | .id => .idWr value
  | .ver => .verWr value
  | .arb => .arbWr value
  | .rteLo pin => .rteLoWr pin value
  | .rteHi pin => .rteHiWr pin value
  | .unused => .unusedWr value

/-- Rule R66: an aligned 32-bit read of the page. -/
def decodeMmioRead (m : DecodeMode) (off : BitVec 12) : Instr :=
  if off = 0x00 then .mmioIdxRd
  else if off = 0x10 then decodeDataRead m.params.record m.selectedIndex
  else .mmioOtherRd off

/-- Rule R66: an aligned 32-bit write to the page. -/
def decodeMmioWrite (m : DecodeMode) (off : BitVec 12) (value : Word) : Instr :=
  if off = 0x00 then .mmioIdxWr value
  else if off = 0x10 then decodeDataWrite m.params.record m.selectedIndex value
  else if eoiOffset m.params.record off then .mmioEoiWr value
  else .mmioOtherWr off value

/-- Rule R39: the offset of an address inside the I/O APIC page, and `none` outside it. -/
def pageOffset (p : Params) (addr : PhysAddr) : Option (BitVec 12) :=
  if addr.extractLsb' 12 52 = p.ioapicBase.extractLsb' 12 52 then some (addr.extractLsb' 0 12) else none

/-- Rule R43: a page access of `size` bytes is an aligned, full-width one. -/
def alignedWord (off : BitVec 12) (size : Nat) : Bool := (size == 4) && (off.extractLsb' 0 2 == 0)

/-- Rule R42: the word of four bytes in bus order; byte `k` is bits `8k+7:8k`. -/
def wordOfBytes (bytes : List Byte) : Word :=
  bytes.getD 3 0 ++ bytes.getD 2 0 ++ bytes.getD 1 0 ++ bytes.getD 0 0

/-- Rule R42: the four bytes of a word in bus order. -/
def bytesOfWord (w : Word) : List Byte :=
  [w.extractLsb' 0 8, w.extractLsb' 8 8, w.extractLsb' 16 8, w.extractLsb' 24 8]

/-- Decoding, total on every transaction: the operation, or the name of what makes the access none. -/
def decode (m : DecodeMode) : Transaction → Except Reject Instr
  | .portWrite port bytes =>
    match portRole m.params port with
    | none => .error .portNotDecoded
    | some role =>
      match bytes with
      | [v] => .ok (decodePortWrite m role v)
      | _ => .error .portAccessNotByte
  | .portRead port size =>
    match portRole m.params port with
    | none => .error .portNotDecoded
    | some role => if size = 1 then .ok (decodePortRead m role) else .error .portAccessNotByte
  | .mmioWrite addr bytes =>
    match pageOffset m.params addr with
    | none => .error .addressNotDecoded
    | some off =>
      if alignedWord off bytes.length then .ok (decodeMmioWrite m off (wordOfBytes bytes))
      else .error .mmioAccessNotAlignedWord
  | .mmioRead addr size =>
    match pageOffset m.params addr with
    | none => .error .addressNotDecoded
    | some off =>
      if alignedWord off size then .ok (decodeMmioRead m off) else .error .mmioAccessNotAlignedWord
  | .picSetLine line level tag => .ok (.picSetline line level tag)
  | .picAck => .ok .picAck
  | .ioSetLine pin level tag ff => .ok (.ioSetline pin level tag ff)
  | .ioSetEoi vector => .ok (.ioSeteoi vector)
  | .ioSendMsi fields tag => .ok (.ioSendmsi fields tag)
  | .reset => .ok .reset

/-- Rules R61, R66, R67, R74: the state that an access must meet for the access to be this operation. -/
def Instr.selectedBy (m : DecodeMode) : Instr → Bool
  | .ocw1 c _ => m.initStep c == 0
  | .icw2 c _ => m.initStep c == 1
  | .icw3 c _ => m.initStep c == 2
  | .icw4 c _ _ _ _ _ _ => m.initStep c == 3
  | .rdIrrIsr c => !m.poll c
  | .rdPoll c => m.poll c
  | .idRd => m.selectedIndex == 0x00
  | .idWr _ => m.selectedIndex == 0x00
  | .verRd => m.selectedIndex == 0x01
  | .verWr _ => m.selectedIndex == 0x01
  | .arbRd => m.selectedIndex == 0x02
  | .arbWr _ => m.selectedIndex == 0x02
  | .rteLoRd pin => decide (m.selectedIndex.toNat = 0x10 + 2 * pin)
  | .rteLoWr pin _ => decide (m.selectedIndex.toNat = 0x10 + 2 * pin)
  | .rteHiRd pin => decide (m.selectedIndex.toNat = 0x11 + 2 * pin)
  | .rteHiWr pin _ => decide (m.selectedIndex.toNat = 0x11 + 2 * pin)
  | .unusedRd => indirectReg m.params.record m.selectedIndex == .unused
  | .unusedWr _ => indirectReg m.params.record m.selectedIndex == .unused
  | .icw1 .. => true
  | .ocw2RotateAeoiClear .. => true
  | .ocw2Nseoi .. => true
  | .ocw2Nop .. => true
  | .ocw2Seoi .. => true
  | .ocw2RotateAeoiSet .. => true
  | .ocw2Rnseoi .. => true
  | .ocw2Setprio .. => true
  | .ocw2Rseoi .. => true
  | .ocw3 .. => true
  | .rdImr _ => true
  | .elcrWr .. => true
  | .elcrRd _ => true
  | .mmioIdxRd => true
  | .mmioIdxWr _ => true
  | .mmioEoiWr _ => true
  | .mmioOtherRd _ => true
  | .mmioOtherWr .. => true
  | .picSetline .. => true
  | .picAck => true
  | .ioSetline .. => true
  | .ioSeteoi _ => true
  | .ioSendmsi .. => true
  | .reset => true

/-- One bit of an encoding. -/
def bit1 (b : Bool) : BitVec 1 := BitVec.ofBool b

/-- Rule R58: the ICW1 byte. -/
def icw1Byte (ic4 sngl adi ltim : Bool) (a7_5 : BitVec 3) : Byte :=
  a7_5 ++ 1#1 ++ bit1 ltim ++ bit1 adi ++ bit1 sngl ++ bit1 ic4

/-- Rules R57, R59: the OCW2 byte of a code. -/
def ocw2Byte (code : BitVec 3) (l : Pin) : Byte := code ++ 0#2 ++ l

/-- Rule R60: the OCW3 byte. -/
def ocw3Byte (ris rr poll smm esmm b7 : Bool) : Byte :=
  bit1 b7 ++ bit1 esmm ++ bit1 smm ++ 0#1 ++ 1#1 ++ bit1 poll ++ bit1 rr ++ bit1 ris

/-- Rule R63: the ICW4 byte. -/
def icw4Byte (upm aeoi ms buf sfnm : Bool) (b7_5 : BitVec 3) : Byte :=
  b7_5 ++ bit1 sfnm ++ bit1 buf ++ bit1 ms ++ bit1 aeoi ++ bit1 upm

/-- A one-byte write to a port of the block. -/
def encodePortWrite (p : Params) (role : PortRole) (v : Byte) : Transaction := .portWrite (portOf p role) [v]

/-- A one-byte read of a port of the block. -/
def encodePortRead (p : Params) (role : PortRole) : Transaction := .portRead (portOf p role) 1

/-- Rules R10, R42: `MemWrite(IOAPIC_BASE + off, 4, value)`. -/
def encodeMmioWrite (p : Params) (off : BitVec 12) (value : Word) : Transaction :=
  .mmioWrite (p.ioapicBase + off.setWidth 64) (bytesOfWord value)

/-- Rule R10: `MemRead(IOAPIC_BASE + off, 4)`. -/
def encodeMmioRead (p : Params) (off : BitVec 12) : Transaction :=
  .mmioRead (p.ioapicBase + off.setWidth 64) 4

/-- The access of each operation, from the tables of rules R38, R39 and R56 to R72. -/
def encode (p : Params) : Instr → Transaction
  | .icw1 c ic4 sngl adi ltim hi => encodePortWrite p (.command c) (icw1Byte ic4 sngl adi ltim hi)
  | .ocw2RotateAeoiClear c l => encodePortWrite p (.command c) (ocw2Byte 0 l)
  | .ocw2Nseoi c l => encodePortWrite p (.command c) (ocw2Byte 1 l)
  | .ocw2Nop c l => encodePortWrite p (.command c) (ocw2Byte 2 l)
  | .ocw2Seoi c pin => encodePortWrite p (.command c) (ocw2Byte 3 pin)
  | .ocw2RotateAeoiSet c l => encodePortWrite p (.command c) (ocw2Byte 4 l)
  | .ocw2Rnseoi c l => encodePortWrite p (.command c) (ocw2Byte 5 l)
  | .ocw2Setprio c pin => encodePortWrite p (.command c) (ocw2Byte 6 pin)
  | .ocw2Rseoi c pin => encodePortWrite p (.command c) (ocw2Byte 7 pin)
  | .ocw3 c ris rr poll smm esmm b7 => encodePortWrite p (.command c) (ocw3Byte ris rr poll smm esmm b7)
  | .ocw1 c v => encodePortWrite p (.data c) v
  | .icw2 c v => encodePortWrite p (.data c) v
  | .icw3 c v => encodePortWrite p (.data c) v
  | .icw4 c upm aeoi ms buf sfnm hi => encodePortWrite p (.data c) (icw4Byte upm aeoi ms buf sfnm hi)
  | .rdIrrIsr c => encodePortRead p (.command c)
  | .rdPoll c => encodePortRead p (.command c)
  | .rdImr c => encodePortRead p (.data c)
  | .elcrWr c v => encodePortWrite p (.elcr c) v
  | .elcrRd c => encodePortRead p (.elcr c)
  | .mmioIdxRd => encodeMmioRead p 0x00
  | .mmioIdxWr value => encodeMmioWrite p 0x00 value
  | .idRd => encodeMmioRead p 0x10
  | .idWr value => encodeMmioWrite p 0x10 value
  | .verRd => encodeMmioRead p 0x10
  | .verWr value => encodeMmioWrite p 0x10 value
  | .arbRd => encodeMmioRead p 0x10
  | .arbWr value => encodeMmioWrite p 0x10 value
  | .rteLoRd _ => encodeMmioRead p 0x10
  | .rteLoWr _ value => encodeMmioWrite p 0x10 value
  | .rteHiRd _ => encodeMmioRead p 0x10
  | .rteHiWr _ value => encodeMmioWrite p 0x10 value
  | .unusedRd => encodeMmioRead p 0x10
  | .unusedWr value => encodeMmioWrite p 0x10 value
  | .mmioEoiWr value => encodeMmioWrite p 0x40 value
  | .mmioOtherRd off => encodeMmioRead p off
  | .mmioOtherWr off value => encodeMmioWrite p off value
  | .picSetline line level tag => .picSetLine line level tag
  | .picAck => .picAck
  | .ioSetline pin level tag ff => .ioSetLine pin level tag ff
  | .ioSeteoi vector => .ioSetEoi vector
  | .ioSendmsi fields tag => .ioSendMsi fields tag
  | .reset => .reset

/-- The transaction that a row's bits alone name (log entry 5). The opcode table numbers only the data byte of a row, and
leaves out the port, the direction and the selected index; so one byte is taken as a byte written to the master's
command port (the only format whose bits the table fixes by themselves, rule R57), and 16 bits as the line number of a
PIC SetLine call with every other argument zero. Any other width names no transaction. -/
def tableTransaction (p : Params) (nbits w : Nat) : Option Transaction :=
  if nbits = 8 then some (.portWrite p.masterBase [BitVec.ofNat 8 w])
  else if nbits = 16 then some (.picSetLine (BitVec.ofNat 16 w) .low 0)
  else none

/-- The mode of a block right after reset, with the default parameters. -/
def DecodeMode.afterReset : DecodeMode :=
  { params := Params.default, masterStep := 0, slaveStep := 0, masterPoll := false, slavePoll := false,
    selectedIndex := 0 }

/-- What the decoder reads from a row's bits. -/
def decodeTableWord (nbits w : Nat) : Option Instr :=
  match tableTransaction Params.default nbits w with
  | none => none
  | some t => (decode DecodeMode.afterReset t).toOption

end Sys2Proof
end

