-- ==== Sys2Proof/Machine/Registers.lean ====
section
/-! DEFINITION. The registers of the block as the spec's data model lists them (10_state.md rules R15, R24, R26), what the
block sends out, and the values at power-on (rule R158). -/

namespace Sys2Proof.Machine

/-- Rule R15: the fields of one PIC channel. One-bit fields are Booleans. -/
structure PicChannel where
  requestReg : Byte
  lastRequestReg : Byte
  maskReg : Byte
  serviceReg : Byte
  priorityBase : Pin
  vectorBase : Byte
  elcr : Byte
  elcrMask : Byte
  initStep : BitVec 2
  expectsFourthInitByte : Bool
  readRegisterSelect : Bool
  pollModeActive : Bool
  specialMaskActive : Bool
  autoEoi : Bool
  rotateOnAutoEoi : Bool
  speciallyNestedMode : Bool
  traceTag : Vector Tag 8
  deriving DecidableEq, Repr

/-- Rules R15, R24: the two channels and the pair's output bit. -/
structure PicPair where
  master : PicChannel
  slave : PicChannel
  intOut : Bool
  deriving DecidableEq, Repr

/-- Rule R26: the fields of the I/O APIC. `rte` and `traceTag` have `pinCount` entries; a bitmap's bits at and above
`pinCount` are 0. -/
structure IoApic where
  selectedIndex : Byte
  apicId : Byte
  rte : List Entry
  pendingLevelBitmap : BitVec maxPins
  flipFlopBitmap : BitVec maxPins
  traceTag : List Tag
  suppressedCount : Nat
  redundantCount : Nat
  deriving DecidableEq, Repr

/-- Rule R139: the kinds of diagnostic that some rule records. No rule records class (4), and class (3) records none. -/
inductive LogKind where
  | protocol
  | addressing
  deriving DecidableEq, Repr

/-- What the PIC pair sends out: the output events of rule R24, the byte a port read returns (rules R106 to R108, R110),
the result of an acknowledge (rule R87), and the diagnostics of rule R10. -/
inductive PicEvent where
  | intrRaise
  | intrLower
  | portByte (v : Byte)
  | acknowledged (vector : Byte) (tag : Tag)
  | log (kind : LogKind)
  deriving DecidableEq, Repr

/-- What the I/O APIC sends out: the attempts of rule R130 with their answers, the word an MMIO read returns
(rules R112 to R127), and the diagnostics of rule R10. -/
inductive IoEvent where
  | attempt (d : Descriptor) (answer : Answer)
  | mmioWord (v : Word)
  | log (kind : LogKind)
  deriving DecidableEq, Repr

/-- Rule R171: a saved state, "a flat dump of the data model": both channels, `pair.intOut` and every I/O APIC field. -/
structure Image where
  pair : PicPair
  io : IoApic
  deriving DecidableEq, Repr

/-- Rule R170: one move of the world on the block. -/
inductive Input where
  /-- An agent applies an operation (rules R38, R39, R41). -/
  | operation (t : Transaction)
  /-- The Delivery Target or the remap hook calls the block from inside an attempt (rules R130, R140). -/
  | reentrant (t : Transaction)
  /-- The host fixes the Delivery Target's answer for a coming attempt (rule R75, `TARGET`). -/
  | target (a : Answer)
  /-- The host restores a saved state (rule R171). -/
  | restore (img : Image)
  deriving DecidableEq, Repr

/-- Rule R158: a channel at power-on; `mask` is the channel's `ELCR_MASK`. -/
def PicChannel.powerOn (mask : Byte) : PicChannel :=
  { requestReg := 0, lastRequestReg := 0, maskReg := 0, serviceReg := 0, priorityBase := 0, vectorBase := 0,
    elcr := 0, elcrMask := mask, initStep := 0, expectsFourthInitByte := false, readRegisterSelect := false,
    pollModeActive := false, specialMaskActive := false, autoEoi := false, rotateOnAutoEoi := false,
    speciallyNestedMode := false, traceTag := Vector.replicate 8 0 }

/-- Rule R158: the PIC pair at power-on. -/
def PicPair.powerOn : PicPair :=
  { master := PicChannel.powerOn elcrMaskMaster, slave := PicChannel.powerOn elcrMaskSlave, intOut := false }

/-- Rule R157: a redirection entry after reset, masked and otherwise 0. -/
def resetEntry : Entry := 0x0000000000010000

/-- Rule R157: the I/O APIC after a reset, with the block's parameters. -/
def IoApic.afterReset (p : Params) : IoApic :=
  { selectedIndex := 0, apicId := p.ioapicResetId &&& p.record.idMask,
    rte := List.replicate p.record.pinCount resetEntry, pendingLevelBitmap := 0, flipFlopBitmap := 0,
    traceTag := List.replicate p.record.pinCount 0, suppressedCount := 0, redundantCount := 0 }

end Sys2Proof.Machine
end

