-- ==== Sys2Proof/Machine/State.lean ====
section
/-! DEFINITION. The whole state of the block, the reasons a step can stop, and the state after reset. -/

namespace Sys2Proof.Machine

/-- Rule R138: "Nothing in this core returns a recoverable error code to its caller; every public operation is total."
The block has no fault, so this type has no constructor: that no step faults is part of the type. Log entry 20: unsafe
only if the rule were wrong of the block. -/
inductive Fault where
  deriving DecidableEq, Repr

/-- What the spec gives no meaning to (rules R38, R39, R140, R171). A refusal does not touch the block's state. -/
inductive Refusal where
  /-- An operation of the table that has no meaning in this model yet; no arm of `exec` uses it. Safe: the model stops. -/
  | notModelled (mnemonic : String)
  /-- Raised by the step on an access that is no operation of the block (rules R38, R39, R43, R44, R140): another port,
  another address, or a width or an alignment that the spec gives no meaning to. Safe: the model stops, and no value is
  guessed. -/
  | access (why : Reject)
  /-- Raised by the step on a call from inside an attempt (rules R130, R140, decision D31). Safe: the model stops. -/
  | reentrantCall
  /-- Raised by the step on a restore of an image that breaks rule R21 (rule R171, decision D48). Safe: the model stops. -/
  | restoredElcrOutsideMask
  /-- Raised by the step on a restore of an image that is no value of this block's data model: a field wider than rules
  R15 and R26 give it, or another `elcrMask` than the constant of rule R15 (rules R7, R170). Safe: the model stops. -/
  | restoredImageMisfit
  deriving DecidableEq, Repr

/-- The state. The spec's own state is `pair` and `io` (10_state.md), under the parameters `params` (rule R7). The other
fields are the model's: what the block has sent out so far, most recent first (rules R24, R130), the number of calls made
of the delivery path (it indexes the free values of Config.lean), the answers the host has fixed for coming attempts
(rule R75), and the moves of the world that are still to be applied, in the total order of rule R49. -/
structure State where
  params : Params
  pair : PicPair
  io : IoApic
  picOut : List PicEvent
  ioOut : List IoEvent
  hookCalls : Nat
  targetScript : List Answer
  inputs : List Input
  deriving DecidableEq, Repr

/-- Rule R158: the power-on state, with the default parameters, nothing sent out and nothing to apply. -/
def State.reset : State :=
  { params := Params.default, pair := PicPair.powerOn, io := IoApic.afterReset Params.default, picOut := [], ioOut := [],
    hookCalls := 0, targetScript := [], inputs := [] }

end Sys2Proof.Machine
end

