-- ==== Sys2Proof/Machine/Operands.lean ====
section
/-! DEFINITION. The fields of the operands and registers: single pins of a byte (rule R8), the fields of a redirection
entry (rule R28), its two halves (rule R71), trace tags (rule R79) and the delivery descriptor (rule R128). -/

namespace Sys2Proof.Machine

/-- `bit(p)` of rule R8, for a pin of a PIC channel. -/
def bit (p : Pin) : Byte := 1#8 <<< p.toNat

/-- `r | bit(p)`. -/
def setBit (r : Byte) (p : Pin) : Byte := r ||| bit p

/-- `r & ~bit(p)`. -/
def clearBit (r : Byte) (p : Pin) : Byte := r &&& ~~~bit p

/-- `r[p]`. -/
def hasBit (r : Byte) (p : Pin) : Bool := r.getLsbD p.toNat

/-- `bm | bit(p)`, for a bitmap of the I/O APIC. -/
def setPinBit (bm : BitVec maxPins) (p : Nat) : BitVec maxPins := bm ||| (1#maxPins <<< p)

/-- `bm & ~bit(p)`, for a bitmap of the I/O APIC. -/
def clearPinBit (bm : BitVec maxPins) (p : Nat) : BitVec maxPins := bm &&& ~~~(1#maxPins <<< p)

/-- Rule R7: `TAG_SAT`, bit 31 of a tag. -/
def tagSat : Tag := 0x80000000

/-- Rule R79: `tagmerge(cur, new)`; the first tag is kept, and a collision sets the saturation bit. -/
def tagMerge (cur new : Tag) : Tag :=
  if new = 0 ∨ new = cur then cur
  else if cur = 0 then new
  else cur ||| tagSat

/-- Rule R25: the channel of a PIC line. -/
def lineChannel (line : BitVec 16) : ChannelId := if line >>> 3 = 0 then .master else .slave

/-- Rule R25: the pin of a PIC line. -/
def linePin (line : BitVec 16) : Pin := line.extractLsb' 0 3

/-- Rule R28: `vector`, bits 7:0. -/
def rteVector (e : Entry) : Byte := e.extractLsb' 0 8

/-- Rule R28: `deliveryMode`, bits 10:8. -/
def rteDeliveryMode (e : Entry) : BitVec 3 := e.extractLsb' 8 3

/-- Rule R28: `destinationMode`, bit 11. -/
def rteDestinationMode (e : Entry) : Bool := e.getLsbD 11

/-- Rule R28: `deliveryStatus`, bit 12. -/
def rteDeliveryStatus (e : Entry) : Bool := e.getLsbD 12

/-- Rule R28: `polarity`, bit 13. -/
def rtePolarity (e : Entry) : Bool := e.getLsbD 13

/-- Rule R28: `remoteIrr`, bit 14. -/
def rteRemoteIrr (e : Entry) : Bool := e.getLsbD 14

/-- Rule R28: `triggerMode`, bit 15; 1 is level. -/
def rteLevel (e : Entry) : Bool := e.getLsbD 15

/-- Rule R28: `mask`, bit 16. -/
def rteMasked (e : Entry) : Bool := e.getLsbD 16

/-- Rule R28: `extendedDestination`, bits 55:48. -/
def rteExtendedDestination (e : Entry) : Byte := e.extractLsb' 48 8

/-- Rule R28: `destination`, bits 63:56. -/
def rteDestination (e : Entry) : Byte := e.extractLsb' 56 8

/-- `remoteIrr <- 1`. -/
def setRemoteIrr (e : Entry) : Entry := e ||| (1#64 <<< 14)

/-- `remoteIrr <- 0`. -/
def clearRemoteIrr (e : Entry) : Entry := e &&& ~~~(1#64 <<< 14)

/-- `half(x, h)` of 42_ioapic_registers.md: `x[31:0]` for the low word (`high = false`), `x[63:32]` for the high word. -/
def half (x : Entry) (high : Bool) : Word := if high then x.extractLsb' 32 32 else x.extractLsb' 0 32

/-- `half(x, h) <- w`. -/
def setHalf (x : Entry) (high : Bool) (w : Word) : Entry :=
  if high then w ++ x.extractLsb' 0 32 else x.extractLsb' 32 32 ++ w

/-- Rule R122: `value` merged into the addressed half through the write mask. -/
def mergeHalf (writeMask e : Entry) (high : Bool) (value : Word) : Entry :=
  setHalf e high ((half e high &&& ~~~half writeMask high) ||| (value &&& half writeMask high))

/-- Rule R128: the descriptor of an entry and its trace tag. -/
def descriptorOf (e : Entry) (tag : Tag) : Descriptor :=
  { vector := rteVector e, deliveryMode := rteDeliveryMode e, destinationMode := rteDestinationMode e,
    polarity := rtePolarity e, triggerMode := rteLevel e, destination := rteDestination e,
    extendedDestination := rteExtendedDestination e, tag := tag }

/-- Rule R135: the descriptor of a message. -/
def descriptorOfMsi (f : MsiFields) (tag : Tag) : Descriptor :=
  { vector := f.vector, deliveryMode := f.deliveryMode, destinationMode := f.destinationMode, polarity := f.polarity,
    triggerMode := f.triggerMode, destination := f.destination, extendedDestination := f.extendedDestination, tag := tag }

/-- Rules R87, R88: `vectorBase + pin`. -/
def vectorOf (ch : PicChannel) (p : Pin) : Byte := ch.vectorBase + p.setWidth 8

/-- Rules R124, R127: the all-ones sentinel of a read that names no register. -/
def allOnes : Word := 0xFFFFFFFF

end Sys2Proof.Machine
end

