-- ==== Sys2Proof/Machine/Flags.lean ====
section
/-! DEFINITION. What each operation computes on the registers of one PIC channel: priority (rules R81, R82), the channel
reset (rule R156), the command-protocol flags (rule R22), the acknowledge bookkeeping (rule R86) and the line input
(rule R78). Nothing here reads or writes any other part of the state. -/

namespace Sys2Proof.Machine

/-- Rule R81: `getPriority`, the smallest rotation offset at which `m` has a pin, or 8 where `m` is empty. -/
def getPriority (base : Pin) (m : Byte) : Nat :=
  if m = 0 then 8
  else ((List.range 8).find? fun k => m.getLsbD ((k + base.toNat) % 8)).getD 8

/-- Rule R82: the requests that may win. -/
def eligible (ch : PicChannel) : Byte := ch.requestReg &&& ~~~ch.maskReg

/-- Rule R82: the pins in service that count against a request, with the special-mask and the special fully-nested
adjustments; the second is the master's only. -/
def countedService (c : ChannelId) (ch : PicChannel) : Byte :=
  let svc := if ch.specialMaskActive then ch.serviceReg &&& ~~~ch.maskReg else ch.serviceReg
  if c = .master ∧ ch.speciallyNestedMode = true then clearBit svc 2 else svc

/-- The pin at a rotation offset. -/
def pinAt (base : Pin) (offset : Nat) : Pin := BitVec.ofNat 3 (offset + base.toNat)

/-- Rule R82: `getPendingIrq`, the channel's winner. -/
def getPendingIrq (c : ChannelId) (ch : PicChannel) : Option Pin :=
  let pr := getPriority ch.priorityBase (eligible ch)
  if pr = 8 then none
  else if pr < getPriority ch.priorityBase (countedService c ch) then some (pinAt ch.priorityBase pr)
  else none

/-- Rule R156: `channelReset`; `elcr`, `elcrMask` and `traceTag` are kept. -/
def channelReset (ch : PicChannel) : PicChannel :=
  { ch with
    requestReg := 0, lastRequestReg := 0, maskReg := 0, serviceReg := 0, priorityBase := 0, vectorBase := 0,
    initStep := 0, expectsFourthInitByte := false, readRegisterSelect := false, pollModeActive := false,
    specialMaskActive := false, autoEoi := false, rotateOnAutoEoi := false, speciallyNestedMode := false }

/-- Rule R156: the channel's part of the device reset, which clears the tags as well. -/
def deviceChannelReset (ch : PicChannel) : PicChannel :=
  { channelReset ch with traceTag := Vector.replicate 8 0 }

/-- Rule R91: an ICW1 on the channel. It clears `lastRequestReg`; what that makes of the next High on an edge pin is the model's
choice (log entry 28). -/
def startInit (ch : PicChannel) (ic4 : Bool) : PicChannel :=
  { channelReset ch with initStep := 1, expectsFourthInitByte := ic4 }

/-- Rules R93, R97: the pin of the highest-priority bit of the raw `serviceReg`. -/
def servicedPin (ch : PicChannel) : Option Pin :=
  let pr := getPriority ch.priorityBase ch.serviceReg
  if pr = 8 then none else some (pinAt ch.priorityBase pr)

/-- Rule R93: the effect of a non-specific EOI. -/
def nonSpecificEoi (ch : PicChannel) : PicChannel :=
  match servicedPin ch with
  | none => ch
  | some w => { ch with serviceReg := clearBit ch.serviceReg w }

/-- Rule R97: the effect of a rotate-on-non-specific EOI. -/
def rotateNonSpecificEoi (ch : PicChannel) : PicChannel :=
  match servicedPin ch with
  | none => ch
  | some w => { ch with serviceReg := clearBit ch.serviceReg w, priorityBase := w + 1 }

/-- Rule R100: the effect of an OCW3; each flag is written only when its enable bit is set. -/
def applyOcw3 (ch : PicChannel) (ris rr poll smm esmm : Bool) : PicChannel :=
  { ch with
    pollModeActive := if poll then true else ch.pollModeActive
    readRegisterSelect := if rr then ris else ch.readRegisterSelect
    specialMaskActive := if esmm then smm else ch.specialMaskActive }

/-- Rule R86: `intack`, the bookkeeping for the winner `w`. -/
def intack (ch : PicChannel) (w : Pin) : PicChannel :=
  let acked :=
    if ch.autoEoi then
      { ch with priorityBase := if ch.rotateOnAutoEoi then w + 1 else ch.priorityBase }
    else { ch with serviceReg := setBit ch.serviceReg w }
  if hasBit ch.elcr w then acked else { acked with requestReg := clearBit acked.requestReg w }

/-- The trace tag of a pin. -/
def tagOf (ch : PicChannel) (p : Pin) : Tag := ch.traceTag[p.toNat]

/-- Write the trace tag of a pin. -/
def setTag (ch : PicChannel) (p : Pin) (t : Tag) : PicChannel :=
  { ch with traceTag := ch.traceTag.set p.toNat t }

/-- Rule R78: `setline1` with level 1. A level-triggered pin requests; an edge-triggered pin requests on a rising edge.
DESIGN CHOICE (log entry 28; unsafe): after an ICW1 or a device reset has cleared `lastRequestReg`, a lone High is a rising
edge, as the pseudocode of rule R78 and rule R17 have it; rule R164 says that an edge source still High needs a Low and a High,
or a FlipFlop. -/
def assertPin (ch : PicChannel) (p : Pin) (tag : Tag) : PicChannel :=
  let seen := { ch with
    requestReg :=
      if hasBit ch.elcr p || !hasBit ch.lastRequestReg p then setBit ch.requestReg p else ch.requestReg
    lastRequestReg := setBit ch.lastRequestReg p }
  setTag seen p (tagMerge (tagOf ch p) tag)

/-- Rule R78: `setline1` with level 0, on either trigger mode; the tag is unchanged. -/
def deassertPin (ch : PicChannel) (p : Pin) : PicChannel :=
  { ch with requestReg := clearBit ch.requestReg p, lastRequestReg := clearBit ch.lastRequestReg p }

/-- Rule R106: what a port+0 read returns while no poll is armed. -/
def selectedRegister (ch : PicChannel) : Byte := if ch.readRegisterSelect then ch.serviceReg else ch.requestReg

/-- Rule R65: the poll word. -/
def pollWord : Option Pin → Byte
  | none => 0x00
  | some w => 0x80 ||| w.setWidth 8

end Sys2Proof.Machine
end

