-- ==== Sys2Proof/Machine/Ops.lean ====
section
/-! DEFINITION. The shared operations on the whole state: access to the channels and the redirection table, the pair's
cascade and output (rules R83 to R85), the delivery path of the I/O APIC (rules R128 to R131) and the device reset
(rules R156, R157). The block takes no exception (rule R138). What corresponds to taking one is `acknowledge`
(rules R87, R145), and what corresponds to the return is the EOI: `nonSpecificEoi` and its kin for the PIC pair,
`setEoi` for the I/O APIC (rule R146). -/

namespace Sys2Proof.Machine

/-- A channel of the pair. -/
def State.chan (s : State) : ChannelId → PicChannel
  | .master => s.pair.master
  | .slave => s.pair.slave

/-- Write a channel of the pair. -/
def State.setChan (s : State) (c : ChannelId) (ch : PicChannel) : State :=
  match c with
  | .master => { s with pair := { s.pair with master := ch } }
  | .slave => { s with pair := { s.pair with slave := ch } }

/-- An output of the PIC pair. -/
def State.emitPic (s : State) (e : PicEvent) : State := { s with picOut := e :: s.picOut }

/-- An output of the I/O APIC. -/
def State.emitIo (s : State) (e : IoEvent) : State := { s with ioOut := e :: s.ioOut }

/-- Rules R10, R24: `intrRaise()`. -/
def State.intrRaise (s : State) : State :=
  { s with pair := { s.pair with intOut := true }, picOut := .intrRaise :: s.picOut }

/-- Rules R10, R24: `intrLower()`. -/
def State.intrLower (s : State) : State :=
  { s with pair := { s.pair with intOut := false }, picOut := .intrLower :: s.picOut }

/-- Rule R82: the winner of a channel. -/
def State.winner (s : State) (c : ChannelId) : Option Pin := getPendingIrq c (s.chan c)

/-- Rule R83: the master with its pin 2 driven by the slave's winner `w`. -/
def drivePin2 (master slave : PicChannel) : Option Pin → PicChannel
  | some w =>
    setTag { master with
      requestReg := setBit master.requestReg 2
      lastRequestReg := setBit master.lastRequestReg 2 } 2 (tagOf slave w)
  | none =>
    setTag { master with
      requestReg := clearBit master.requestReg 2
      lastRequestReg := clearBit master.lastRequestReg 2 } 2 0

/-- Rule R83: the cascade step, with the slave's winner. -/
def State.cascade (s : State) (w : Option Pin) : State :=
  s.setChan .master (drivePin2 s.pair.master s.pair.slave w)

/-- Rule R84: the forced clear of a stale master pin 2. -/
def State.dropPin2 (s : State) : State :=
  s.setChan .master { s.pair.master with requestReg := clearBit s.pair.master.requestReg 2 }

/-- Rule R84: one pass of the loop. The Boolean is true where the loop returns. -/
def State.deliveryPass (s : State) : State × Bool :=
  let w := s.winner .slave
  let s1 := s.cascade w
  match s1.winner .master with
  | none => (s1.intrLower, true)
  | some m =>
    if m ≠ 2 ∨ w.isSome = true then (s1.intrRaise, true)
    else (s1.intrLower.dropPin2, false)

/-- Rule R84: `updateDelivery`, at most two passes. -/
def State.updateDelivery (s : State) : State :=
  match s.deliveryPass with
  | (s1, true) => s1
  | (s1, false) => s1.deliveryPass.1

/-- Rule R90: a PIC port write puts a channel in its new state and ends with updateDelivery. -/
def State.writeChan (s : State) (c : ChannelId) (ch : PicChannel) : State := (s.setChan c ch).updateDelivery

/-- A PIC port read returns a byte (rules R106 to R108, R110). -/
def State.returnByte (s : State) (v : Byte) : State := s.emitPic (.portByte v)

/-- Rule R107: the bookkeeping of a poll that found a winner. -/
def pollAck (ch : PicChannel) : Option Pin → PicChannel
  | none => ch
  | some w => setTag (intack ch w) w 0

/-- Rule R107: `poll(c)`. -/
def State.pollRead (s : State) (c : ChannelId) : State :=
  let ch := { s.chan c with pollModeActive := false }
  let w := getPendingIrq c ch
  (s.writeChan c (pollAck ch w)).returnByte (pollWord w)

/-- Rule R77: one `setline1` and the updateDelivery after it. -/
def State.driveLine (s : State) (c : ChannelId) (p : Pin) (high : Bool) (tag : Tag) : State :=
  s.writeChan c (if high then assertPin (s.chan c) p tag else deassertPin (s.chan c) p)

/-- Rule R87: the bookkeeping of an acknowledge before its updateDelivery, and the vector and tag it returns. -/
def State.acknowledgeWinner (s : State) : State × Byte × Tag :=
  match s.winner .master with
  | none => (s, vectorOf s.pair.master 7, 0)
  | some m =>
    let s1 := s.setChan .master (intack s.pair.master m)
    if m = 2 then
      match s1.winner .slave with
      | none => (s1, vectorOf s1.pair.slave 7, 0)
      | some w =>
        let slave := intack s1.pair.slave w
        (s1.setChan .slave (setTag slave w 0), vectorOf slave w, tagOf slave w)
    else
      let master := s1.pair.master
      (s1.setChan .master (setTag master m 0), vectorOf master m, tagOf master m)

/-- Rule R87: AcknowledgeVector. -/
def State.acknowledge (s : State) : State :=
  match s.acknowledgeWinner with
  | (s1, vec, tag) => s1.updateDelivery.emitPic (.acknowledged vec tag)

/-- The variant record in force (rule R34). -/
def State.record (s : State) : VariantRecord := s.params.record

/-- The redirection entry of a pin (rule R9, `io.rte[p]`). -/
def State.rte (s : State) (p : Nat) : Entry := s.io.rte.getD p 0

/-- The trace tag of an I/O APIC pin. -/
def State.ioTag (s : State) (p : Nat) : Tag := s.io.traceTag.getD p 0

/-- `io.pendingLevelBitmap[p] = 1`. -/
def State.pending (s : State) (p : Nat) : Bool := s.io.pendingLevelBitmap.getLsbD p

/-- `io.flipFlopBitmap[p] = 1`. -/
def State.flipFlop (s : State) (p : Nat) : Bool := s.io.flipFlopBitmap.getLsbD p

/-- Write a redirection entry. -/
def State.setRte (s : State) (p : Nat) (e : Entry) : State := { s with io := { s.io with rte := s.io.rte.set p e } }

/-- Write a trace tag of the I/O APIC. -/
def State.setIoTag (s : State) (p : Nat) (t : Tag) : State :=
  { s with io := { s.io with traceTag := s.io.traceTag.set p t } }

/-- Set a pin's pending-level bit. -/
def State.setPending (s : State) (p : Nat) : State :=
  { s with io := { s.io with pendingLevelBitmap := setPinBit s.io.pendingLevelBitmap p } }

/-- Clear a pin's pending-level bit. -/
def State.clearPending (s : State) (p : Nat) : State :=
  { s with io := { s.io with pendingLevelBitmap := clearPinBit s.io.pendingLevelBitmap p } }

/-- Set a pin's flip-flop bit. -/
def State.setFlipFlop (s : State) (p : Nat) : State :=
  { s with io := { s.io with flipFlopBitmap := setPinBit s.io.flipFlopBitmap p } }

/-- Clear a pin's flip-flop bit. -/
def State.clearFlipFlop (s : State) (p : Nat) : State :=
  { s with io := { s.io with flipFlopBitmap := clearPinBit s.io.flipFlopBitmap p } }

/-- Rule R131: `suppressedCount + 1`. -/
def State.countSuppressed (s : State) : State :=
  { s with io := { s.io with suppressedCount := s.io.suppressedCount + 1 } }

/-- Rule R133: `redundantCount + 1`. -/
def State.countRedundant (s : State) : State :=
  { s with io := { s.io with redundantCount := s.io.redundantCount + 1 } }

/-- Rule R129: what the remap hook makes of a descriptor at this call. -/
def State.remapped (s : State) (d : Descriptor) : Option Descriptor :=
  match s.params.remap with
  | .identity => some d
  | .oracle => Config.remapAnswer s.hookCalls d

/-- Rule R130: the Delivery Target's answer to the next attempt: the one the host has fixed (rule R75), else a free draw. -/
def State.answer (s : State) : Answer :=
  match s.targetScript with
  | a :: _ => a
  | [] => Config.targetAnswer s.hookCalls

/-- Rules R129, R130: one call of the hook and, unless it discards, one attempt. The Boolean is true where the target
accepted. -/
def State.deliver (s : State) (d : Descriptor) : State × Bool :=
  match s.remapped d with
  | none => ({ s with hookCalls := s.hookCalls + 1 }, false)
  | some r =>
    ({ s with
        ioOut := .attempt r s.answer :: s.ioOut
        hookCalls := s.hookCalls + 1
        targetScript := s.targetScript.tail },
      decide (s.answer = .accept))

/-- Rule R131: the bookkeeping after an accepted attempt for pin `p`, by the entry's own trigger mode (rule R129). -/
def State.accepted (s : State) (p : Nat) : State :=
  if rteLevel (s.rte p) then s.setRte p (setRemoteIrr (s.rte p))
  else if s.flipFlop p then (s.clearPending p).setIoTag p 0
  else s

/-- Rule R131: `signalPendingInterrupt(p)`. -/
def State.signalPending (s : State) (p : Nat) : State :=
  if rteMasked (s.rte p) then s
  else if rteLevel (s.rte p) && rteRemoteIrr (s.rte p) then s.countSuppressed
  else
    match s.deliver (descriptorOf (s.rte p) (s.ioTag p)) with
    | (s1, true) => s1.accepted p
    | (s1, false) => s1

/-- Rule R122: a write of one half of an entry. -/
def State.writeRteHalf (s : State) (p : Nat) (high : Bool) (value : Word) : State :=
  let s1 := s.setRte p (mergeHalf s.record.rteWriteMask (s.rte p) high value)
  if s.pending p then s1.signalPending p else s1

/-- Rule R134: the visit of one pin. -/
def State.eoiPin (vector : Byte) (s : State) (p : Nat) : State :=
  if rteLevel (s.rte p) && (rteVector (s.rte p) == vector) then
    let s1 := s.setRte p (clearRemoteIrr (s.rte p))
    if s.pending p then s1.signalPending p else s1
  else s

/-- Rule R134: `SetEoi(vector)`, over the pins in ascending order. -/
def State.setEoi (s : State) (vector : Byte) : State :=
  (List.range s.record.pinCount).foldl (State.eoiPin vector) s

/-- Rule R133: the assertion of a pin that is not a flip-flop. -/
def State.assertIoPin (s : State) (p : Nat) : State :=
  let s1 := s.clearFlipFlop p
  if s.pending p then
    if rteLevel (s.rte p) then s1.countRedundant.signalPending p else s1.countRedundant
  else (s1.setPending p).signalPending p

/-- Rule R133: the flip-flop assertion of a pin. -/
def State.flipFlopIoPin (s : State) (p : Nat) : State :=
  ((s.setFlipFlop p).setPending p).signalPending p

/-- An I/O APIC read returns a word (rules R112 to R127). -/
def State.returnWord (s : State) (v : Word) : State := s.emitIo (.mmioWord v)

/-- Rule R156: the PIC pair's part of the device reset. -/
def State.resetPair (s : State) : State :=
  ({ s with pair := { s.pair with
      master := deviceChannelReset s.pair.master, slave := deviceChannelReset s.pair.slave } }).updateDelivery

/-- Rules R156, R157, R159: the device reset. -/
def State.deviceReset (s : State) : State := { s.resetPair with io := IoApic.afterReset s.params }

end Sys2Proof.Machine
end

