-- ==== Sys2Proof/Machine/IoRegisters.lean ====
section
/-! DEFINITION. The meanings of the MMIO accesses to the I/O APIC: the index register, the registers behind the data
register, the EOI register and the other offsets (42_ioapic_registers.md rules R111 to R127). -/

namespace Sys2Proof.Machine

/-- R112. -/
def execMmioIdxRd (s : State) : Host.Outcome State Fault Refusal :=
  .next (s.returnWord (s.io.selectedIndex.setWidth 32))

/-- R111. -/
def execMmioIdxWr (value : Word) (s : State) : Host.Outcome State Fault Refusal :=
  .next { s with io := { s.io with selectedIndex := value.extractLsb' 0 8 } }

/-- R115. -/
def execIdRd (s : State) : Host.Outcome State Fault Refusal :=
  .next (s.returnWord (s.io.apicId.setWidth 32 <<< 24))

/-- R116. -/
def execIdWr (value : Word) (s : State) : Host.Outcome State Fault Refusal :=
  .next { s with io := { s.io with apicId := value.extractLsb' 24 8 &&& s.record.idMask } }

/-- R117. -/
def execVerRd (s : State) : Host.Outcome State Fault Refusal :=
  .next (s.returnWord ((BitVec.ofNat 32 (s.record.pinCount - 1) <<< 16) ||| s.record.versionByte.setWidth 32))

/-- R118: no effect. -/
def execVerWr (_value : Word) (s : State) : Host.Outcome State Fault Refusal := .next s

/-- R119. -/
def execArbRd (s : State) : Host.Outcome State Fault Refusal :=
  .next (s.returnWord (s.io.apicId.setWidth 32 <<< 24))

/-- R120: no effect. -/
def execArbWr (_value : Word) (s : State) : Host.Outcome State Fault Refusal := .next s

/-- R121, the low word. -/
def execRteLoRd (pin : Nat) (s : State) : Host.Outcome State Fault Refusal :=
  .next (s.returnWord (half (s.rte pin &&& s.record.rteReadMask) false))

/-- R122, the low word. -/
def execRteLoWr (pin : Nat) (value : Word) (s : State) : Host.Outcome State Fault Refusal :=
  .next (s.writeRteHalf pin false value)

/-- R121, the high word. -/
def execRteHiRd (pin : Nat) (s : State) : Host.Outcome State Fault Refusal :=
  .next (s.returnWord (half (s.rte pin &&& s.record.rteReadMask) true))

/-- R122, the high word. -/
def execRteHiWr (pin : Nat) (value : Word) (s : State) : Host.Outcome State Fault Refusal :=
  .next (s.writeRteHalf pin true value)

/-- R124. -/
def execUnusedRd (s : State) : Host.Outcome State Fault Refusal :=
  .next ((s.emitIo (.log .addressing)).returnWord allOnes)

/-- R125. -/
def execUnusedWr (_value : Word) (s : State) : Host.Outcome State Fault Refusal :=
  .next (s.emitIo (.log .addressing))

/-- R126: the vector is `value[7:0]`. -/
def execMmioEoiWr (value : Word) (s : State) : Host.Outcome State Fault Refusal :=
  .next (s.setEoi (value.extractLsb' 0 8))

/-- R127, a read. -/
def execMmioOtherRd (_off : BitVec 12) (s : State) : Host.Outcome State Fault Refusal :=
  .next ((s.emitIo (.log .addressing)).returnWord allOnes)

/-- R127, a write. -/
def execMmioOtherWr (_off : BitVec 12) (_value : Word) (s : State) : Host.Outcome State Fault Refusal :=
  .next (s.emitIo (.log .addressing))

end Sys2Proof.Machine
end

