-- ==== Sys2Proof/Machine/PicCommand.lean ====
section
/-! DEFINITION. The meanings of the command-byte operations, ICW1, OCW2 and OCW3 (41_pic_ports.md rules R91 to R100).
Every one ends with updateDelivery (rule R90). -/

namespace Sys2Proof.Machine

/-- Record a diagnostic on the PIC side when its condition holds (rules R10, R139). -/
def State.logPicIf (s : State) (cond : Bool) (k : LogKind) : State := if cond then s.emitPic (.log k) else s

/-- R91. Single mode and the level-sensitive bit are logged, and have no other effect. -/
def execIcw1 (c : ChannelId) (ic4 sngl _adi ltim : Bool) (_a7_5 : BitVec 3) (s : State) :
    Host.Outcome State Fault Refusal :=
  let s1 := s.setChan c (startInit (s.chan c) ic4)
  .next ((s1.logPicIf sngl .protocol).logPicIf ltim .protocol).updateDelivery

/-- R92: `rotateOnAutoEoi <- v[7]`, which is 0 for this code. -/
def execOcw2RotateAeoiClear (c : ChannelId) (_l : Pin) (s : State) : Host.Outcome State Fault Refusal :=
  .next (s.writeChan c { s.chan c with rotateOnAutoEoi := false })

/-- R93. -/
def execOcw2Nseoi (c : ChannelId) (_l : Pin) (s : State) : Host.Outcome State Fault Refusal :=
  .next (s.writeChan c (nonSpecificEoi (s.chan c)))

/-- R94. -/
def execOcw2Nop (c : ChannelId) (_l : Pin) (s : State) : Host.Outcome State Fault Refusal :=
  .next (s.writeChan c (s.chan c))

/-- R95. -/
def execOcw2Seoi (c : ChannelId) (pin : Pin) (s : State) : Host.Outcome State Fault Refusal :=
  .next (s.writeChan c { s.chan c with serviceReg := clearBit (s.chan c).serviceReg pin })

/-- R96: `rotateOnAutoEoi <- v[7]`, which is 1 for this code. -/
def execOcw2RotateAeoiSet (c : ChannelId) (_l : Pin) (s : State) : Host.Outcome State Fault Refusal :=
  .next (s.writeChan c { s.chan c with rotateOnAutoEoi := true })

/-- R97. -/
def execOcw2Rnseoi (c : ChannelId) (_l : Pin) (s : State) : Host.Outcome State Fault Refusal :=
  .next (s.writeChan c (rotateNonSpecificEoi (s.chan c)))

/-- R98. -/
def execOcw2Setprio (c : ChannelId) (pin : Pin) (s : State) : Host.Outcome State Fault Refusal :=
  .next (s.writeChan c { s.chan c with priorityBase := pin + 1 })

/-- R99. -/
def execOcw2Rseoi (c : ChannelId) (pin : Pin) (s : State) : Host.Outcome State Fault Refusal :=
  .next (s.writeChan c
    { s.chan c with serviceReg := clearBit (s.chan c).serviceReg pin, priorityBase := pin + 1 })

/-- R100. -/
def execOcw3 (c : ChannelId) (ris rr poll smm esmm _b7 : Bool) (s : State) : Host.Outcome State Fault Refusal :=
  .next (s.writeChan c (applyOcw3 (s.chan c) ris rr poll smm esmm))

end Sys2Proof.Machine
end

