-- ==== Sys2Proof/Machine/PicData.lean ====
section
/-! DEFINITION. The meanings of the data-byte operations, OCW1 and ICW2 to ICW4 (41_pic_ports.md rules R101 to R105), and of
the ELCR port (rules R109, R110). Every write ends with updateDelivery (rule R90). -/

namespace Sys2Proof.Machine

/-- R101. -/
def execOcw1 (c : ChannelId) (v : Byte) (s : State) : Host.Outcome State Fault Refusal :=
  .next (s.writeChan c { s.chan c with maskReg := v })

/-- R102. -/
def execIcw2 (c : ChannelId) (v : Byte) (s : State) : Host.Outcome State Fault Refusal :=
  .next (s.writeChan c { s.chan c with vectorBase := v &&& 0xF8, initStep := 2 })

/-- R103. -/
def execIcw3 (c : ChannelId) (_v : Byte) (s : State) : Host.Outcome State Fault Refusal :=
  .next (s.writeChan c { s.chan c with initStep := if (s.chan c).expectsFourthInitByte then 3 else 0 })

/-- R104. -/
def execIcw4 (c : ChannelId) (_upm aeoi _ms _buf sfnm : Bool) (_b7_5 : BitVec 3) (s : State) :
    Host.Outcome State Fault Refusal :=
  .next (s.writeChan c { s.chan c with speciallyNestedMode := sfnm, autoEoi := aeoi, initStep := 0 })

/-- R109. -/
def execElcrWr (c : ChannelId) (v : Byte) (s : State) : Host.Outcome State Fault Refusal :=
  .next (s.writeChan c { s.chan c with elcr := v &&& (s.chan c).elcrMask })

/-- R110. -/
def execElcrRd (c : ChannelId) (s : State) : Host.Outcome State Fault Refusal :=
  .next (s.returnByte (s.chan c).elcr)

end Sys2Proof.Machine
end

