-- ==== Sys2Proof/Machine/PicRead.lean ====
section
/-! DEFINITION. The meanings of the port reads of a PIC channel (41_pic_ports.md rules R106 to R108). -/

namespace Sys2Proof.Machine

/-- R106: with a poll armed the read is a poll, as the rule's first line says. -/
def execRdIrrIsr (c : ChannelId) (s : State) : Host.Outcome State Fault Refusal :=
  if (s.chan c).pollModeActive then .next (s.pollRead c)
  else .next (s.returnByte (selectedRegister (s.chan c)))

/-- R107. -/
def execRdPoll (c : ChannelId) (s : State) : Host.Outcome State Fault Refusal := .next (s.pollRead c)

/-- R108. -/
def execRdImr (c : ChannelId) (s : State) : Host.Outcome State Fault Refusal :=
  .next (s.returnByte (s.chan c).maskReg)

end Sys2Proof.Machine
end

