-- ==== Sys2Proof/Machine/SideBand.lean ====
section
/-! DEFINITION. The meanings of the side-band operations (rules R77, R87, R132 to R135, R156 to R159). -/

namespace Sys2Proof.Machine

/-- R77. A line above 15 belongs to no pin: the call is logged, and updateDelivery is not run. -/
def execPicSetline (line : BitVec 16) (level : PicLevel) (tag : Tag) (s : State) : Host.Outcome State Fault Refusal :=
  if 16 ≤ line.toNat then .next (s.emitPic (.log .addressing))
  else
    match level with
    | .low => .next (s.driveLine (lineChannel line) (linePin line) false tag)
    | .high => .next (s.driveLine (lineChannel line) (linePin line) true tag)
    | .flipFlop =>
      .next ((s.driveLine (lineChannel line) (linePin line) false tag).driveLine
        (lineChannel line) (linePin line) true tag)

/-- R87. -/
def execPicAck (s : State) : Host.Outcome State Fault Refusal := .next s.acknowledge

/-- R133. A pin at or above `pinCount` is logged and does nothing else (rule R132); a flip-flop overrides the level. -/
def execIoSetline (pin : Byte) (level : IoLevel) (tag : Tag) (isFlipFlop : Bool) (s : State) :
    Host.Outcome State Fault Refusal :=
  if s.record.pinCount ≤ pin.toNat then .next (s.emitIo (.log .addressing))
  else
    let merged := s.setIoTag pin.toNat (tagMerge (s.ioTag pin.toNat) tag)
    match isFlipFlop, level with
    | true, _ => .next (merged.flipFlopIoPin pin.toNat)
    | false, .low => .next ((s.clearPending pin.toNat).setIoTag pin.toNat 0)
    | false, .high => .next (merged.assertIoPin pin.toNat)

/-- R134. -/
def execIoSeteoi (vector : Byte) (s : State) : Host.Outcome State Fault Refusal := .next (s.setEoi vector)

/-- R135: the answer is not used. -/
def execIoSendmsi (fields : MsiFields) (tag : Tag) (s : State) : Host.Outcome State Fault Refusal :=
  .next (s.deliver (descriptorOfMsi fields tag)).1

/-- R156, R157, R159. -/
def execReset (s : State) : Host.Outcome State Fault Refusal := .next s.deviceReset

end Sys2Proof.Machine
end

