-- ==== Sys2Proof/Machine/Dispatch.lean ====
section
/-! DEFINITION. One arm for each operation of spec/opcode_table.json, in the table's order. -/

namespace Sys2Proof.Machine

def exec (i : Instr) (s : State) : Host.Outcome State Fault Refusal :=
  match i with
  | .icw1 c ic4 sngl adi ltim a7_5 => Sys2Proof.Machine.execIcw1 c ic4 sngl adi ltim a7_5 s
  | .ocw2RotateAeoiClear c l => Sys2Proof.Machine.execOcw2RotateAeoiClear c l s
  | .ocw2Nseoi c l => Sys2Proof.Machine.execOcw2Nseoi c l s
  | .ocw2Nop c l => Sys2Proof.Machine.execOcw2Nop c l s
  | .ocw2Seoi c pin => Sys2Proof.Machine.execOcw2Seoi c pin s
  | .ocw2RotateAeoiSet c l => Sys2Proof.Machine.execOcw2RotateAeoiSet c l s
  | .ocw2Rnseoi c l => Sys2Proof.Machine.execOcw2Rnseoi c l s
  | .ocw2Setprio c pin => Sys2Proof.Machine.execOcw2Setprio c pin s
  | .ocw2Rseoi c pin => Sys2Proof.Machine.execOcw2Rseoi c pin s
  | .ocw3 c ris rr poll smm esmm b7 => Sys2Proof.Machine.execOcw3 c ris rr poll smm esmm b7 s
  | .ocw1 c v => Sys2Proof.Machine.execOcw1 c v s
  | .icw2 c v => Sys2Proof.Machine.execIcw2 c v s
  | .icw3 c v => Sys2Proof.Machine.execIcw3 c v s
  | .icw4 c upm aeoi ms buf sfnm b7_5 => Sys2Proof.Machine.execIcw4 c upm aeoi ms buf sfnm b7_5 s
  | .rdIrrIsr c => Sys2Proof.Machine.execRdIrrIsr c s
  | .rdPoll c => Sys2Proof.Machine.execRdPoll c s
  | .rdImr c => Sys2Proof.Machine.execRdImr c s
  | .elcrWr c v => Sys2Proof.Machine.execElcrWr c v s
  | .elcrRd c => Sys2Proof.Machine.execElcrRd c s
  | .mmioIdxRd => Sys2Proof.Machine.execMmioIdxRd s
  | .mmioIdxWr value => Sys2Proof.Machine.execMmioIdxWr value s
  | .idRd => Sys2Proof.Machine.execIdRd s
  | .idWr value => Sys2Proof.Machine.execIdWr value s
  | .verRd => Sys2Proof.Machine.execVerRd s
  | .verWr value => Sys2Proof.Machine.execVerWr value s
  | .arbRd => Sys2Proof.Machine.execArbRd s
  | .arbWr value => Sys2Proof.Machine.execArbWr value s
  | .rteLoRd pin => Sys2Proof.Machine.execRteLoRd pin s
  | .rteLoWr pin value => Sys2Proof.Machine.execRteLoWr pin value s
  | .rteHiRd pin => Sys2Proof.Machine.execRteHiRd pin s
  | .rteHiWr pin value => Sys2Proof.Machine.execRteHiWr pin value s
  | .unusedRd => Sys2Proof.Machine.execUnusedRd s
  | .unusedWr value => Sys2Proof.Machine.execUnusedWr value s
  | .mmioEoiWr value => Sys2Proof.Machine.execMmioEoiWr value s
  | .mmioOtherRd off => Sys2Proof.Machine.execMmioOtherRd off s
  | .mmioOtherWr off value => Sys2Proof.Machine.execMmioOtherWr off value s
  | .picSetline line level tag => Sys2Proof.Machine.execPicSetline line level tag s
  | .picAck => Sys2Proof.Machine.execPicAck s
  | .ioSetline pin level tag isFlipFlop => Sys2Proof.Machine.execIoSetline pin level tag isFlipFlop s
  | .ioSeteoi vector => Sys2Proof.Machine.execIoSeteoi vector s
  | .ioSendmsi fields tag => Sys2Proof.Machine.execIoSendmsi fields tag s
  | .reset => Sys2Proof.Machine.execReset s

end Sys2Proof.Machine
end

