-- ==== Sys2Proof/Machine/Inputs.lean ====
section
/-! DEFINITION. How the moves of the world reach the block (rules R49, R170): taking the next one, the state that decoding
reads (rule R74), and the host's save and restore (rule R171). -/

namespace Sys2Proof.Machine

/-- The next move of the world, and the state without it. -/
def State.fetch (s : State) : Option (Input × State) :=
  match s.inputs with
  | [] => none
  | i :: rest => some (i, { s with inputs := rest })

/-- Rule R74: what decoding reads of the state. -/
def State.decodeMode (s : State) : DecodeMode :=
  { params := s.params, masterStep := s.pair.master.initStep, slaveStep := s.pair.slave.initStep,
    masterPoll := s.pair.master.pollModeActive, slavePoll := s.pair.slave.pollModeActive,
    selectedIndex := s.io.selectedIndex }

/-- Rule R48: an operation is one indivisible step, decoded in the state it is applied to. -/
def State.apply (s : State) (t : Transaction) : Host.Outcome State Fault Refusal :=
  match decode s.decodeMode t with
  | .ok i => exec i s
  | .error why => .refused (.access why)

/-- Rule R75: the host fixes the answer of a coming attempt. -/
def State.script (s : State) (a : Answer) : State := { s with targetScript := s.targetScript ++ [a] }

/-- Rule R171: a save copies every field of the data model. -/
def State.save (s : State) : Image := { pair := s.pair, io := s.io }

/-- Rule R21: `elcr & ~elcrMask = 0`. -/
def PicChannel.elcrInMask (ch : PicChannel) : Bool := ch.elcr &&& ~~~ch.elcrMask == 0

/-- Rule R15: `vectorBase` is "8, low 3 bits always 0". -/
def PicChannel.vectorBaseAligned (ch : PicChannel) : Bool := ch.vectorBase &&& 0x07 == 0

/-- Rule R26: the fields of the I/O APIC have the widths that the variant gives them. -/
def IoApic.fits (v : VariantRecord) (io : IoApic) : Bool :=
  (io.apicId &&& ~~~v.idMask == 0) && (io.rte.length == v.pinCount) && (io.traceTag.length == v.pinCount) &&
    (io.pendingLevelBitmap >>> v.pinCount == 0) && (io.flipFlopBitmap >>> v.pinCount == 0)

/-- The image is a value of this block's data model: the widths of rules R15 and R26, and the constant `elcrMask` of each
channel (rules R7, R15, R170). -/
def State.admits (s : State) (img : Image) : Bool :=
  img.pair.master.vectorBaseAligned && img.pair.slave.vectorBaseAligned &&
    (img.pair.master.elcrMask == s.pair.master.elcrMask) && (img.pair.slave.elcrMask == s.pair.slave.elcrMask) &&
    img.io.fits s.record

/-- Rule R171: a restore writes the fields back; it runs no updateDelivery, makes no attempt and records no output. -/
def State.restore (s : State) (img : Image) : Host.Outcome State Fault Refusal :=
  if !(img.pair.master.elcrInMask && img.pair.slave.elcrInMask) then .refused .restoredElcrOutsideMask
  else if s.admits img then .next { s with pair := img.pair, io := img.io }
  else .refused .restoredImageMisfit

/-- One move of the world (rule R170). -/
def State.applyInput (s : State) : Input → Host.Outcome State Fault Refusal
  | .operation t => s.apply t
  | .reentrant _ => .refused .reentrantCall
  | .target a => .next (s.script a)
  | .restore img => s.restore img

/-- `s` with a transaction as the next move of the world. -/
def State.withNext (s : State) (t : Transaction) : State := { s with inputs := .operation t :: s.inputs }

end Sys2Proof.Machine
end

