-- ==== Sys2Proof/Machine/Step.lean ====
section
/-! DEFINITION. One step of the block: the next move of the world is applied. "It changes state only when an operation is
applied" (rule R155), so with nothing to apply the state stays as it is. -/

namespace Sys2Proof.Machine

def step (s : State) : Host.Outcome State Fault Refusal :=
  match s.fetch with
  | none => .next s
  | some (i, s1) => s1.applyInput i

/-- `s` with the transaction of a row's bits (`tableTransaction`) as the next move of the world. -/
def State.withFetchWord (s : State) (nbits w : Nat) : State :=
  match tableTransaction s.params nbits w with
  | none => s
  | some t => s.withNext t

end Sys2Proof.Machine
end

