-- ==== Sys2Proof/Laws/Decoding.lean ====
section
/-! SUPPORT. What the pieces of the decoder answer on what the pieces of the encoder write. -/

namespace Sys2Proof

theorem portRole_portOf (p : Params) (h : p.wellFormed = true) (r : PortRole) : portRole p (portOf p r) = some r := by
  have hn : p.ports.Nodup := by
    simp only [Params.wellFormed, Bool.and_eq_true, decide_eq_true_eq] at h; exact h.1.1
  simp only [Params.ports, List.nodup_cons, List.mem_cons, List.not_mem_nil, or_false, not_or] at hn
  obtain ⟨⟨h1, h2, h3, h4, h5⟩, ⟨h6, h7, h8, h9⟩, ⟨h10, h11, h12⟩, ⟨h13, h14⟩, h15, _⟩ := hn
  rcases r with c | c | c <;> cases c <;> simp only [portRole, portOf]
  · exact if_pos trivial
  · rw [if_neg (Ne.symm h2), if_neg (Ne.symm h6)]; exact if_pos trivial
  · rw [if_neg (Ne.symm h1)]; exact if_pos trivial
  · rw [if_neg (Ne.symm h3), if_neg (Ne.symm h7), if_neg (Ne.symm h10)]; exact if_pos trivial
  · rw [if_neg (Ne.symm h4), if_neg (Ne.symm h8), if_neg (Ne.symm h11), if_neg (Ne.symm h13)]; exact if_pos trivial
  · rw [if_neg (Ne.symm h5), if_neg (Ne.symm h9), if_neg (Ne.symm h12), if_neg (Ne.symm h14), if_neg (Ne.symm h15)]
    exact if_pos trivial

theorem portOf_of_portRole (p : Params) (port : Port) (r : PortRole) (h : portRole p port = some r) :
    portOf p r = port := by
  simp only [portRole] at h
  repeat' split at h
  all_goals simp_all
  all_goals subst h; simp [portOf]

theorem base_aligned (p : Params) (h : p.wellFormed = true) : p.ioapicBase.toNat % 4096 = 0 := by
  simp only [Params.wellFormed, Bool.and_eq_true, beq_iff_eq] at h
  have := congrArg BitVec.toNat h.1.2
  simpa [BitVec.extractLsb'] using this

theorem base_add_toNat (p : Params) (h : p.wellFormed = true) (off : BitVec 12) :
    (p.ioapicBase + off.setWidth 64).toNat = p.ioapicBase.toNat + off.toNat := by
  have h1 := base_aligned p h
  have h2 := p.ioapicBase.isLt
  have h3 := off.isLt
  simp only [BitVec.toNat_add, BitVec.toNat_setWidth]
  omega

theorem pageOffset_add (p : Params) (h : p.wellFormed = true) (off : BitVec 12) :
    pageOffset p (p.ioapicBase + off.setWidth 64) = some off := by
  have h1 := base_aligned p h
  have h2 := base_add_toNat p h off
  have h3 := off.isLt
  have h4 := p.ioapicBase.isLt
  have hp : (p.ioapicBase + off.setWidth 64).extractLsb' 12 52 = p.ioapicBase.extractLsb' 12 52 := by
    apply BitVec.eq_of_toNat_eq
    simp only [BitVec.extractLsb'_toNat, h2, Nat.shiftRight_eq_div_pow]
    omega
  have ho : (p.ioapicBase + off.setWidth 64).extractLsb' 0 12 = off := by
    apply BitVec.eq_of_toNat_eq
    simp only [BitVec.extractLsb'_toNat, h2, Nat.shiftRight_zero]
    omega
  simp [pageOffset, hp, ho]

theorem add_of_pageOffset (p : Params) (h : p.wellFormed = true) (addr : PhysAddr) (off : BitVec 12)
    (ho : pageOffset p addr = some off) : p.ioapicBase + off.setWidth 64 = addr := by
  simp only [pageOffset] at ho
  split at ho
  · rename_i hp
    simp only [Option.some.injEq] at ho
    have h1 := base_aligned p h
    have h2 := base_add_toNat p h off
    have h3 := congrArg BitVec.toNat hp
    have h4 := congrArg BitVec.toNat ho
    apply BitVec.eq_of_toNat_eq
    have h5 := addr.isLt
    have h6 := p.ioapicBase.isLt
    simp only [BitVec.extractLsb'_toNat, Nat.shiftRight_eq_div_pow] at h3 h4
    omega
  · exact absurd ho (by simp)

theorem wordOfBytes_bytesOfWord (w : Word) : wordOfBytes (bytesOfWord w) = w := by
  simp only [wordOfBytes, bytesOfWord, List.getD_cons_zero, List.getD_cons_succ]
  apply BitVec.eq_of_getLsbD_eq
  intro i hi
  simp only [BitVec.getLsbD_append, BitVec.getLsbD_extractLsb']
  repeat' split
  all_goals (rw [decide_eq_true (by omega), Bool.true_and]; congr 1; omega)

theorem bytesOfWord_wordOfBytes (bytes : List Byte) (h : bytes.length = 4) : bytesOfWord (wordOfBytes bytes) = bytes := by
  match bytes, h with
  | [a, b, c, d], _ =>
    simp only [wordOfBytes, bytesOfWord, List.getD_cons_zero, List.getD_cons_succ, List.cons.injEq, and_true]
    refine ⟨?_, ?_, ?_, ?_⟩ <;>
      · ext i hi
        simp only [BitVec.getElem_extractLsb', BitVec.getLsbD_append]
        repeat' split
        all_goals first
          | (exfalso; omega)
          | (rw [BitVec.getLsbD_eq_getElem (by omega)]; congr 1; omega)

@[simp] theorem bytesOfWord_length (w : Word) : (bytesOfWord w).length = 4 := rfl

end Sys2Proof
end

