-- ==== Sys2Proof/Laws/PerInstr.lean ====
section
/-! SUPPORT. Per instruction: what the encoder writes, the decoder reads back, with every operand (the family
`DecodeEncode` of LAWS.json). -/

namespace Sys2Proof

/-- On a block with legal parameters, the access that `encode` writes for an operation that exists and that the block's
mode selects decodes to that operation. -/
def Laws.DecodeEncode.Statement (i : Instr) : Prop :=
  ∀ m : DecodeMode, m.params.wellFormed = true → i.wellFormed m.params.record = true → i.selectedBy m = true →
    decode m (encode m.params i) = .ok i

theorem decode_portWrite (m : DecodeMode) (h : m.params.wellFormed = true) (r : PortRole) (v : Byte) :
    decode m (encodePortWrite m.params r v) = .ok (decodePortWrite m r v) := by
  simp [decode, encodePortWrite, portRole_portOf _ h]

theorem decode_portRead (m : DecodeMode) (h : m.params.wellFormed = true) (r : PortRole) :
    decode m (encodePortRead m.params r) = .ok (decodePortRead m r) := by
  simp [decode, encodePortRead, portRole_portOf _ h]

theorem decode_mmioWrite (m : DecodeMode) (h : m.params.wellFormed = true) (off : BitVec 12) (w : Word)
    (ha : off.extractLsb' 0 2 = 0) : decode m (encodeMmioWrite m.params off w) = .ok (decodeMmioWrite m off w) := by
  simp [decode, encodeMmioWrite, pageOffset_add _ h, alignedWord, ha, wordOfBytes_bytesOfWord]

theorem decode_mmioRead (m : DecodeMode) (h : m.params.wellFormed = true) (off : BitVec 12)
    (ha : off.extractLsb' 0 2 = 0) : decode m (encodeMmioRead m.params off) = .ok (decodeMmioRead m off) := by
  simp [decode, encodeMmioRead, pageOffset_add _ h, alignedWord, ha]

theorem decodeCommand_icw1 (c : ChannelId) (ic4 sngl adi ltim : Bool) (hi : BitVec 3) :
    decodeCommand c (icw1Byte ic4 sngl adi ltim hi) = .icw1 c ic4 sngl adi ltim hi := by
  revert hi; cases c <;> cases ic4 <;> cases sngl <;> cases adi <;> cases ltim <;> decide

theorem decodeCommand_ocw2 (c : ChannelId) (l : Pin) :
    decodeCommand c (ocw2Byte 0 l) = .ocw2RotateAeoiClear c l ∧ decodeCommand c (ocw2Byte 1 l) = .ocw2Nseoi c l ∧
    decodeCommand c (ocw2Byte 2 l) = .ocw2Nop c l ∧ decodeCommand c (ocw2Byte 3 l) = .ocw2Seoi c l ∧
    decodeCommand c (ocw2Byte 4 l) = .ocw2RotateAeoiSet c l ∧ decodeCommand c (ocw2Byte 5 l) = .ocw2Rnseoi c l ∧
    decodeCommand c (ocw2Byte 6 l) = .ocw2Setprio c l ∧ decodeCommand c (ocw2Byte 7 l) = .ocw2Rseoi c l := by
  revert l; cases c <;> decide

theorem decodeCommand_ocw3 (c : ChannelId) (ris rr poll smm esmm b7 : Bool) :
    decodeCommand c (ocw3Byte ris rr poll smm esmm b7) = .ocw3 c ris rr poll smm esmm b7 := by
  cases c <;> cases ris <;> cases rr <;> cases poll <;> cases smm <;> cases esmm <;> cases b7 <;> decide

theorem decodeData_icw4 (c : ChannelId) (upm aeoi ms buf sfnm : Bool) (hi : BitVec 3) :
    decodeData 3 c (icw4Byte upm aeoi ms buf sfnm hi) = .icw4 c upm aeoi ms buf sfnm hi := by
  revert hi; cases c <;> cases upm <;> cases aeoi <;> cases ms <;> cases buf <;> cases sfnm <;> decide

theorem indirectReg_arb (v : VariantRecord) (h : v.hasArbReg = true) : indirectReg v 0x02 = .arb := by
  simp [indirectReg, h]

theorem indirectReg_rte (v : VariantRecord) (i : Byte) (h : 0x10 ≤ i.toNat ∧ i.toNat ≤ v.lastIndex) :
    indirectReg v i =
      if i.toNat % 2 = 0 then .rteLo ((i.toNat - 0x10) / 2) else .rteHi ((i.toNat - 0x10) / 2) := by
  have h0 : i ≠ 0 := by rintro rfl; simp at h
  have h1 : i ≠ 1 := by rintro rfl; simp at h
  have h2 : i ≠ 2 := by rintro rfl; simp at h
  rw [indirectReg, if_neg h0, if_neg h1, if_neg (fun h' => h2 h'.1), if_pos h]

theorem indirectReg_rteLo (v : VariantRecord) (i : Byte) (pin : Nat) (hp : pin < v.pinCount)
    (h : i.toNat = 0x10 + 2 * pin) : indirectReg v i = .rteLo pin := by
  rw [indirectReg_rte v i (by simp only [VariantRecord.lastIndex]; omega), if_pos (by omega)]
  congr 1; omega

theorem indirectReg_rteHi (v : VariantRecord) (i : Byte) (pin : Nat) (hp : pin < v.pinCount)
    (h : i.toNat = 0x11 + 2 * pin) : indirectReg v i = .rteHi pin := by
  rw [indirectReg_rte v i (by simp only [VariantRecord.lastIndex]; omega), if_neg (by omega)]
  congr 1; omega

theorem Laws.DecodeEncode.icw1 (c : ChannelId) (ic4 sngl adi ltim : Bool) (a7_5 : BitVec 3) :
    Laws.DecodeEncode.Statement (.icw1 c ic4 sngl adi ltim a7_5) := fun m h _ _ => by
  simp only [encode, decode_portWrite m h, decodePortWrite, decodeCommand_icw1]

theorem Laws.DecodeEncode.ocw2RotateAeoiClear (c : ChannelId) (l : Pin) :
    Laws.DecodeEncode.Statement (.ocw2RotateAeoiClear c l) := fun m h _ _ => by
  simp only [encode, decode_portWrite m h, decodePortWrite, (decodeCommand_ocw2 c l).1]

theorem Laws.DecodeEncode.ocw2Nseoi (c : ChannelId) (l : Pin) :
    Laws.DecodeEncode.Statement (.ocw2Nseoi c l) := fun m h _ _ => by
  simp only [encode, decode_portWrite m h, decodePortWrite, (decodeCommand_ocw2 c l).2.1]

theorem Laws.DecodeEncode.ocw2Nop (c : ChannelId) (l : Pin) :
    Laws.DecodeEncode.Statement (.ocw2Nop c l) := fun m h _ _ => by
  simp only [encode, decode_portWrite m h, decodePortWrite, (decodeCommand_ocw2 c l).2.2.1]

theorem Laws.DecodeEncode.ocw2Seoi (c : ChannelId) (pin : Pin) :
    Laws.DecodeEncode.Statement (.ocw2Seoi c pin) := fun m h _ _ => by
  simp only [encode, decode_portWrite m h, decodePortWrite, (decodeCommand_ocw2 c pin).2.2.2.1]

theorem Laws.DecodeEncode.ocw2RotateAeoiSet (c : ChannelId) (l : Pin) :
    Laws.DecodeEncode.Statement (.ocw2RotateAeoiSet c l) := fun m h _ _ => by
  simp only [encode, decode_portWrite m h, decodePortWrite, (decodeCommand_ocw2 c l).2.2.2.2.1]

theorem Laws.DecodeEncode.ocw2Rnseoi (c : ChannelId) (l : Pin) :
    Laws.DecodeEncode.Statement (.ocw2Rnseoi c l) := fun m h _ _ => by
  simp only [encode, decode_portWrite m h, decodePortWrite, (decodeCommand_ocw2 c l).2.2.2.2.2.1]

theorem Laws.DecodeEncode.ocw2Setprio (c : ChannelId) (pin : Pin) :
    Laws.DecodeEncode.Statement (.ocw2Setprio c pin) := fun m h _ _ => by
  simp only [encode, decode_portWrite m h, decodePortWrite, (decodeCommand_ocw2 c pin).2.2.2.2.2.2.1]

theorem Laws.DecodeEncode.ocw2Rseoi (c : ChannelId) (pin : Pin) :
    Laws.DecodeEncode.Statement (.ocw2Rseoi c pin) := fun m h _ _ => by
  simp only [encode, decode_portWrite m h, decodePortWrite, (decodeCommand_ocw2 c pin).2.2.2.2.2.2.2]

theorem Laws.DecodeEncode.ocw3 (c : ChannelId) (ris rr poll smm esmm b7 : Bool) :
    Laws.DecodeEncode.Statement (.ocw3 c ris rr poll smm esmm b7) := fun m h _ _ => by
  simp only [encode, decode_portWrite m h, decodePortWrite, decodeCommand_ocw3]

theorem Laws.DecodeEncode.ocw1 (c : ChannelId) (v : Byte) :
    Laws.DecodeEncode.Statement (.ocw1 c v) := fun m h _ hs => by
  have hs : m.initStep c = 0 := by simpa [Instr.selectedBy] using hs
  simp [encode, decode_portWrite m h, decodePortWrite, hs, decodeData]

theorem Laws.DecodeEncode.icw2 (c : ChannelId) (v : Byte) :
    Laws.DecodeEncode.Statement (.icw2 c v) := fun m h _ hs => by
  have hs : m.initStep c = 1 := by simpa [Instr.selectedBy] using hs
  simp [encode, decode_portWrite m h, decodePortWrite, hs, decodeData]

theorem Laws.DecodeEncode.icw3 (c : ChannelId) (v : Byte) :
    Laws.DecodeEncode.Statement (.icw3 c v) := fun m h _ hs => by
  have hs : m.initStep c = 2 := by simpa [Instr.selectedBy] using hs
  simp [encode, decode_portWrite m h, decodePortWrite, hs, decodeData]

theorem Laws.DecodeEncode.icw4 (c : ChannelId) (upm aeoi ms buf sfnm : Bool) (b7_5 : BitVec 3) :
    Laws.DecodeEncode.Statement (.icw4 c upm aeoi ms buf sfnm b7_5) := fun m h _ hs => by
  have hs : m.initStep c = 3 := by simpa [Instr.selectedBy] using hs
  simp only [encode, decode_portWrite m h, decodePortWrite, hs, decodeData_icw4]

theorem Laws.DecodeEncode.rdIrrIsr (c : ChannelId) :
    Laws.DecodeEncode.Statement (.rdIrrIsr c) := fun m h _ hs => by
  have hs : m.poll c = false := by simpa [Instr.selectedBy] using hs
  simp [encode, decode_portRead m h, decodePortRead, hs]

theorem Laws.DecodeEncode.rdPoll (c : ChannelId) :
    Laws.DecodeEncode.Statement (.rdPoll c) := fun m h _ hs => by
  have hs : m.poll c = true := by simpa [Instr.selectedBy] using hs
  simp [encode, decode_portRead m h, decodePortRead, hs]

theorem Laws.DecodeEncode.rdImr (c : ChannelId) :
    Laws.DecodeEncode.Statement (.rdImr c) := fun m h _ _ => by
  simp [encode, decode_portRead m h, decodePortRead]

theorem Laws.DecodeEncode.elcrWr (c : ChannelId) (v : Byte) :
    Laws.DecodeEncode.Statement (.elcrWr c v) := fun m h _ _ => by
  simp [encode, decode_portWrite m h, decodePortWrite]

theorem Laws.DecodeEncode.elcrRd (c : ChannelId) :
    Laws.DecodeEncode.Statement (.elcrRd c) := fun m h _ _ => by
  simp [encode, decode_portRead m h, decodePortRead]

theorem Laws.DecodeEncode.mmioIdxRd :
    Laws.DecodeEncode.Statement (.mmioIdxRd) := fun m h _ _ => by
  simp [encode, decode_mmioRead m h, decodeMmioRead]

theorem Laws.DecodeEncode.mmioIdxWr (value : Word) :
    Laws.DecodeEncode.Statement (.mmioIdxWr value) := fun m h _ _ => by
  simp [encode, decode_mmioWrite m h, decodeMmioWrite]

theorem Laws.DecodeEncode.idRd :
    Laws.DecodeEncode.Statement (.idRd) := fun m h hw hs => by
  have hs : m.selectedIndex = 0 := by simpa [Instr.selectedBy] using hs
  simp [encode, decode_mmioRead m h, decodeMmioRead, decodeDataRead, hs, indirectReg]

theorem Laws.DecodeEncode.idWr (value : Word) :
    Laws.DecodeEncode.Statement (.idWr value) := fun m h hw hs => by
  have hs : m.selectedIndex = 0 := by simpa [Instr.selectedBy] using hs
  simp [encode, decode_mmioWrite m h, decodeMmioWrite, decodeDataWrite, hs, indirectReg]

theorem Laws.DecodeEncode.verRd :
    Laws.DecodeEncode.Statement (.verRd) := fun m h hw hs => by
  have hs : m.selectedIndex = 1 := by simpa [Instr.selectedBy] using hs
  simp [encode, decode_mmioRead m h, decodeMmioRead, decodeDataRead, hs, indirectReg]

theorem Laws.DecodeEncode.verWr (value : Word) :
    Laws.DecodeEncode.Statement (.verWr value) := fun m h hw hs => by
  have hs : m.selectedIndex = 1 := by simpa [Instr.selectedBy] using hs
  simp [encode, decode_mmioWrite m h, decodeMmioWrite, decodeDataWrite, hs, indirectReg]

theorem Laws.DecodeEncode.arbRd :
    Laws.DecodeEncode.Statement (.arbRd) := fun m h hw hs => by
  have hs : m.selectedIndex = 2 := by simpa [Instr.selectedBy] using hs
  have hr : indirectReg m.params.record m.selectedIndex = .arb := by rw [hs]; exact indirectReg_arb _ hw
  simp [encode, decode_mmioRead m h, decodeMmioRead, decodeDataRead, hr]

theorem Laws.DecodeEncode.arbWr (value : Word) :
    Laws.DecodeEncode.Statement (.arbWr value) := fun m h hw hs => by
  have hs : m.selectedIndex = 2 := by simpa [Instr.selectedBy] using hs
  have hr : indirectReg m.params.record m.selectedIndex = .arb := by rw [hs]; exact indirectReg_arb _ hw
  simp [encode, decode_mmioWrite m h, decodeMmioWrite, decodeDataWrite, hr]

theorem Laws.DecodeEncode.rteLoRd (pin : Nat) :
    Laws.DecodeEncode.Statement (.rteLoRd pin) := fun m h hw hs => by
  have hr := indirectReg_rteLo m.params.record m.selectedIndex pin (by simpa [Instr.wellFormed] using hw)
    (by simpa [Instr.selectedBy] using hs)
  simp [encode, decode_mmioRead m h, decodeMmioRead, decodeDataRead, hr]

theorem Laws.DecodeEncode.rteLoWr (pin : Nat) (value : Word) :
    Laws.DecodeEncode.Statement (.rteLoWr pin value) := fun m h hw hs => by
  have hr := indirectReg_rteLo m.params.record m.selectedIndex pin (by simpa [Instr.wellFormed] using hw)
    (by simpa [Instr.selectedBy] using hs)
  simp [encode, decode_mmioWrite m h, decodeMmioWrite, decodeDataWrite, hr]

theorem Laws.DecodeEncode.rteHiRd (pin : Nat) :
    Laws.DecodeEncode.Statement (.rteHiRd pin) := fun m h hw hs => by
  have hr := indirectReg_rteHi m.params.record m.selectedIndex pin (by simpa [Instr.wellFormed] using hw)
    (by simpa [Instr.selectedBy] using hs)
  simp [encode, decode_mmioRead m h, decodeMmioRead, decodeDataRead, hr]

theorem Laws.DecodeEncode.rteHiWr (pin : Nat) (value : Word) :
    Laws.DecodeEncode.Statement (.rteHiWr pin value) := fun m h hw hs => by
  have hr := indirectReg_rteHi m.params.record m.selectedIndex pin (by simpa [Instr.wellFormed] using hw)
    (by simpa [Instr.selectedBy] using hs)
  simp [encode, decode_mmioWrite m h, decodeMmioWrite, decodeDataWrite, hr]

theorem Laws.DecodeEncode.unusedRd :
    Laws.DecodeEncode.Statement (.unusedRd) := fun m h _ hs => by
  have hr : indirectReg m.params.record m.selectedIndex = .unused := by simpa [Instr.selectedBy] using hs
  simp [encode, decode_mmioRead m h, decodeMmioRead, decodeDataRead, hr]

theorem Laws.DecodeEncode.unusedWr (value : Word) :
    Laws.DecodeEncode.Statement (.unusedWr value) := fun m h _ hs => by
  have hr : indirectReg m.params.record m.selectedIndex = .unused := by simpa [Instr.selectedBy] using hs
  simp [encode, decode_mmioWrite m h, decodeMmioWrite, decodeDataWrite, hr]

theorem Laws.DecodeEncode.mmioEoiWr (value : Word) :
    Laws.DecodeEncode.Statement (.mmioEoiWr value) := fun m h hw _ => by
  have hw : m.params.record.hasEoiReg = true := hw
  simp [encode, decode_mmioWrite m h, decodeMmioWrite, eoiOffset, hw]

theorem Laws.DecodeEncode.mmioOtherRd (off : BitVec 12) :
    Laws.DecodeEncode.Statement (.mmioOtherRd off) := fun m h hw _ => by
  have hw : (off.extractLsb' 0 2 = 0 ∧ off ≠ 0) ∧ off ≠ 0x10 := by
    simpa [Instr.wellFormed, otherOffset] using hw
  simp only [encode, decode_mmioRead m h off hw.1.1, decodeMmioRead, if_neg hw.1.2, if_neg hw.2]

theorem Laws.DecodeEncode.mmioOtherWr (off : BitVec 12) (value : Word) :
    Laws.DecodeEncode.Statement (.mmioOtherWr off value) := fun m h hw _ => by
  have hw : ((off.extractLsb' 0 2 = 0 ∧ off ≠ 0) ∧ off ≠ 0x10) ∧ eoiOffset m.params.record off = false := by
    simpa [Instr.wellFormed, otherOffset] using hw
  simp only [encode, decode_mmioWrite m h off value hw.1.1.1, decodeMmioWrite, if_neg hw.1.1.2, if_neg hw.1.2, hw.2,
    Bool.false_eq_true, if_false]

theorem Laws.DecodeEncode.picSetline (line : BitVec 16) (level : PicLevel) (tag : Tag) :
    Laws.DecodeEncode.Statement (.picSetline line level tag) := fun _ _ _ _ => rfl

theorem Laws.DecodeEncode.picAck :
    Laws.DecodeEncode.Statement (.picAck) := fun _ _ _ _ => rfl

theorem Laws.DecodeEncode.ioSetline (pin : Byte) (level : IoLevel) (tag : Tag) (isFlipFlop : Bool) :
    Laws.DecodeEncode.Statement (.ioSetline pin level tag isFlipFlop) := fun _ _ _ _ => rfl

theorem Laws.DecodeEncode.ioSeteoi (vector : Byte) :
    Laws.DecodeEncode.Statement (.ioSeteoi vector) := fun _ _ _ _ => rfl

theorem Laws.DecodeEncode.ioSendmsi (fields : MsiFields) (tag : Tag) :
    Laws.DecodeEncode.Statement (.ioSendmsi fields tag) := fun _ _ _ _ => rfl

theorem Laws.DecodeEncode.reset :
    Laws.DecodeEncode.Statement (.reset) := fun _ _ _ _ => rfl

end Sys2Proof
end

