-- ==== Sys2Proof/Safety.lean ====
section
/-! DEFINITION. The terms in which claims about the block are made: the invariant that every step keeps, the pair's settled
output, and relations that say what an operation may change and what it leaves alone. They are written from the rules, not
from the operations of Machine/. -/

namespace Sys2Proof.Machine

/-- The invariant of every step. The parameters are legal (rules R34, R38, R39); on each channel `elcr & ~elcrMask = 0`
(rule R21) and the low 3 bits of `vectorBase` are 0 (rule R20); and the I/O APIC's fields have their widths (rule R26). -/
def State.inv (s : State) : Bool :=
  s.params.wellFormed && s.pair.master.elcrInMask && s.pair.slave.elcrInMask &&
    s.pair.master.vectorBaseAligned && s.pair.slave.vectorBaseAligned && s.io.fits s.record

/-- Rules R84, R85: the pair's output is that of its present state. Master pin 2 carries the slave's winner and its tag,
and `intOut` is 1 exactly when the master has a winner. -/
abbrev State.settled (s : State) : Prop :=
  hasBit s.pair.master.requestReg 2 = (s.winner .slave).isSome ∧
  hasBit s.pair.master.lastRequestReg 2 = (s.winner .slave).isSome ∧
  tagOf s.pair.master 2 = ((s.winner .slave).map (tagOf s.pair.slave)).getD 0 ∧
  s.pair.intOut = (s.winner .master).isSome

/-- Rule R14: the priority offset of a pin, the rotation distance from `base`; 0 is the highest priority. -/
def priorityOffset (base p : Pin) : Nat := (p - base).toNat

/-- `w` is the highest-priority pin of `m`. -/
def highestIn (base : Pin) (m : Byte) (w : Pin) : Prop :=
  hasBit m w = true ∧ ∀ q : Pin, hasBit m q = true → priorityOffset base w ≤ priorityOffset base q

/-- Everything outside the PIC pair is as it was. -/
def State.picFrame (s t : State) : Prop :=
  t.params = s.params ∧ t.io = s.io ∧ t.ioOut = s.ioOut ∧ t.hookCalls = s.hookCalls ∧ t.targetScript = s.targetScript ∧
    t.inputs = s.inputs

/-- Everything outside the I/O APIC is as it was. -/
def State.ioFrame (s t : State) : Prop :=
  t.params = s.params ∧ t.pair = s.pair ∧ t.picOut = s.picOut ∧ t.inputs = s.inputs

/-- The two channels agree but for the request, the shadow and the tag of pin 2. -/
def PicChannel.sameButPin2 (a b : PicChannel) : Prop :=
  a = { b with requestReg := a.requestReg, lastRequestReg := a.lastRequestReg, traceTag := a.traceTag } ∧
    ∀ p : Pin, p ≠ 2 → hasBit a.requestReg p = hasBit b.requestReg p ∧
      hasBit a.lastRequestReg p = hasBit b.lastRequestReg p ∧ tagOf a p = tagOf b p

/-- The output event of an updateDelivery that leaves the output at `intOut` (rule R24). -/
def lineEvent (intOut : Bool) : PicEvent := if intOut then .intrRaise else .intrLower

/-- Rules R84, R90: the pair was put into the channels `master` and `slave`, and updateDelivery ran. Master pin 2 belongs to
the cascade, the output is settled, one line event is sent out (after `before`, and before `after`, most recent first), and
nothing outside the pair changes. -/
def State.pairBecame (s : State) (master slave : PicChannel) (before after : List PicEvent) (t : State) : Prop :=
  t.pair.master.sameButPin2 master ∧ t.pair.slave = slave ∧ t.settled ∧ s.picFrame t ∧
    t.picOut = after ++ lineEvent t.pair.intOut :: (before ++ s.picOut)

/-- `pairBecame` for a write of channel `c` alone. -/
def State.chanBecame (s : State) (c : ChannelId) (ch : PicChannel) (before after : List PicEvent) (t : State) : Prop :=
  match c with
  | .master => s.pairBecame ch s.pair.slave before after t
  | .slave => s.pairBecame s.pair.master ch before after t

/-- Rules R129, R130: one call of the delivery path with the descriptor `d`. A discard by the hook sends nothing out; else
one attempt is sent out, with the target's answer. `took` is the target's acceptance. -/
def State.attempted (s : State) (d : Descriptor) (took : Bool) (t : State) : Prop :=
  t.hookCalls = s.hookCalls + 1 ∧
    match s.remapped d with
    | none => took = false ∧ t.ioOut = s.ioOut ∧ t.targetScript = s.targetScript
    | some r =>
      took = decide (s.answer = .accept) ∧ t.ioOut = .attempt r s.answer :: s.ioOut ∧
        t.targetScript = s.targetScript.tail

/-- Rule R131: what an accepted attempt for pin `p` does to the I/O APIC. -/
def acceptedIo (io : IoApic) (p : Nat) : IoApic :=
  if rteLevel (io.rte.getD p 0) then { io with rte := io.rte.set p (io.rte.getD p 0 ||| 0x4000#64) }
  else if io.flipFlopBitmap.getLsbD p then
    { io with
      pendingLevelBitmap := io.pendingLevelBitmap &&& ~~~(1#maxPins <<< p)
      traceTag := io.traceTag.set p 0 }
  else io

/-- Rule R131, as a relation between the state before and the state after the delivery decision for pin `p`. -/
def State.signalled (s : State) (p : Nat) (t : State) : Prop :=
  (rteMasked (s.rte p) = true → t = s) ∧
  (rteMasked (s.rte p) = false → rteLevel (s.rte p) = true → rteRemoteIrr (s.rte p) = true →
    t = { s with io := { s.io with suppressedCount := s.io.suppressedCount + 1 } }) ∧
  (rteMasked (s.rte p) = false → (rteLevel (s.rte p) = true → rteRemoteIrr (s.rte p) = false) →
    ∃ took, s.attempted (descriptorOf (s.rte p) (s.ioTag p)) took t ∧ s.ioFrame t ∧
      t.io = if took then acceptedIo s.io p else s.io)

/-- Rule R134: pin `p` is a pin that an EOI of `vector` attempts again: level, with that vector, pending and unmasked. -/
def State.reattempted (s : State) (vector : Byte) (p : Nat) : Bool :=
  rteLevel (s.rte p) && (rteVector (s.rte p) == vector) && s.pending p && !rteMasked (s.rte p)

/-- The operations that may clear a bit of `serviceReg` of channel `c` (rule R18). -/
def clearsService (c : ChannelId) : Instr → Bool
  | .icw1 d .. | .ocw2Nseoi d _ | .ocw2Seoi d _ | .ocw2Rnseoi d _ | .ocw2Rseoi d _ => d == c
  | .reset => true
  | _ => false

/-- The operations that may set a bit of `serviceReg` of channel `c` (rule R18): the acknowledge, and a poll of the
channel. -/
def setsService (c : ChannelId) (poll : Bool) : Instr → Bool
  | .picAck => true
  | .rdPoll d => d == c
  | .rdIrrIsr d => (d == c) && poll
  | _ => false

/-- The vector of an operation that is an EOI broadcast (rules R126, R134). -/
def eoiVector : Instr → Option Byte
  | .ioSeteoi vector => some vector
  | .mmioEoiWr value => some (value.extractLsb' 0 8)
  | _ => none

end Sys2Proof.Machine
end

