-- ==== Sys2Proof/Certificates/Slice0/Obligations.lean ====
section
/-! DEFINITION. The statements for the provers. Each docstring names the rules it formalises. Relations such as
`State.chanBecame`, `State.signalled` and `State.settled` stand in Safety.lean. -/

open Sys2Proof Sys2Proof.Machine

/-! Decoding and the step. -/

/-- Rules R56 to R74: on a block with legal parameters, the access that `encode` writes for an operation that exists,
in a mode that selects it, decodes to that operation, with every operand at every value. The bit positions, the
indices and the default numbers are the spec's own decisions D1, D2, D4, D9, D22, D36, D43 and D46. -/
def Obligations.DecodingReadsWhatEncodingWrites : Prop :=
  ∀ (i : Instr) (m : DecodeMode), m.params.wellFormed = true → i.wellFormed m.params.record = true →
    i.selectedBy m = true → decode m (encode m.params i) = .ok i

/-- Rules R56 to R74, the other way: an access that decodes to an operation is the access `encode` writes for it, and
the operation exists and is selected by the mode. So no two accesses of one mode are the same operation. The bit
positions, the indices and the default numbers are the spec's own decisions D1, D2, D4, D9, D22, D36, D43 and D46. -/
def Obligations.EveryDecodedAccessIsTheEncodingOfItsOperation : Prop :=
  ∀ (i : Instr) (m : DecodeMode) (t : Transaction), m.params.wellFormed = true → decode m t = .ok i →
    encode m.params i = t ∧ i.wellFormed m.params.record = true ∧ i.selectedBy m = true

/-- Rules R57, R58, R60, R61, R63, R66, R67: a few accesses, written out from the spec's tables. The bit positions,
the indices and the default numbers are the spec's own decisions D1, D2, D4, D9, D22, D36, D43 and D46. -/
def Obligations.DecodingReadsTheWordsOfTheSpec : Prop :=
  decode DecodeMode.afterReset (.portWrite 0x20 [0x11]) = .ok (.icw1 .master true false false false 0) ∧
  decode DecodeMode.afterReset (.portWrite 0xA0 [0x63]) = .ok (.ocw2Seoi .slave 3) ∧
  decode DecodeMode.afterReset (.portWrite 0x20 [0x6B]) = .ok (.ocw3 .master true true false true true false) ∧
  decode DecodeMode.afterReset (.portWrite 0x21 [0xFB]) = .ok (.ocw1 .master 0xFB) ∧
  decode { DecodeMode.afterReset with slaveStep := 3 } (.portWrite 0xA1 [0x12]) =
    .ok (.icw4 .slave false true false false true 0) ∧
  decode { DecodeMode.afterReset with masterPoll := true } (.portRead 0x20 1) = .ok (.rdPoll .master) ∧
  decode { DecodeMode.afterReset with selectedIndex := 0x19 } (.mmioWrite 0xFEC00010 [0x00, 0x00, 0x00, 0x01]) =
    .ok (.rteHiWr 4 0x01000000) ∧
  decode DecodeMode.afterReset (.mmioWrite 0xFEC00040 [0x30, 0x00, 0x00, 0x00]) = .ok (.mmioEoiWr 0x30)

/-- Rule R48: when the next move of the world is an access that decodes to an operation, the step is that operation on the
state without the move. Nothing else happens in the step. -/
def Obligations.StepRunsTheDecodedOperation : Prop :=
  ∀ (s : State) (t : Transaction) (rest : List Input) (i : Instr), s.inputs = .operation t :: rest →
    decode s.decodeMode t = .ok i → step s = exec i { s with inputs := rest }

/-- Rule R155: with nothing to apply, the state does not change. That such a step is a next state is the model's
reading (log entry 6). Rule R155 is the spec's own decision D42. -/
def Obligations.StepWithNothingToApplyChangesNothing : Prop :=
  ∀ s : State, s.inputs = [] → step s = .next s

/-- Rule R140: the three things that have no meaning are refused, each by name: a page access that is not 4 bytes wide
and 4-byte aligned, a port access that is not one byte, and a call from inside an attempt. The refusals are the spec's
own decisions D22, D31 and D36. -/
def Obligations.StepRefusesWhatHasNoMeaning : Prop :=
  ∀ (s : State) (rest : List Input), s.params.wellFormed = true →
    (∀ (off : BitVec 12) (size : Nat), s.inputs = .operation (.mmioRead (s.params.ioapicBase + off.setWidth 64) size) :: rest →
      ¬(size = 4 ∧ off.toNat % 4 = 0) → step s = .refused (.access .mmioAccessNotAlignedWord)) ∧
    (∀ (off : BitVec 12) (bytes : List Byte),
      s.inputs = .operation (.mmioWrite (s.params.ioapicBase + off.setWidth 64) bytes) :: rest →
      ¬(bytes.length = 4 ∧ off.toNat % 4 = 0) → step s = .refused (.access .mmioAccessNotAlignedWord)) ∧
    (∀ (role : PortRole) (size : Nat), s.inputs = .operation (.portRead (portOf s.params role) size) :: rest →
      size ≠ 1 → step s = .refused (.access .portAccessNotByte)) ∧
    (∀ (role : PortRole) (bytes : List Byte), s.inputs = .operation (.portWrite (portOf s.params role) bytes) :: rest →
      bytes.length ≠ 1 → step s = .refused (.access .portAccessNotByte)) ∧
    (∀ t : Transaction, s.inputs = .reentrant t :: rest → step s = .refused .reentrantCall)

/-- Rule R138: every operation of the block is total, and no step of the block faults. -/
def Obligations.EveryOperationIsTotalAndNoStepFaults : Prop :=
  (∀ (i : Instr) (s : State), ∃ t, exec i s = .next t) ∧ ∀ (s : State) (f : Fault), step s ≠ .fault f

/-- Rule R171 and decision D48: a restore of an image that satisfies rule R21 and is a value of the block's data model
writes the two controllers back and changes nothing else; an image that breaks rule R21 is refused. What a value of the data
model is, is the model's reading (log entry 9). -/
def Obligations.RestoreWritesTheImageBackUnchanged : Prop :=
  ∀ (s : State) (img : Image) (rest : List Input), s.inputs = .restore img :: rest →
    (img.pair.master.elcr &&& ~~~img.pair.master.elcrMask = 0 → img.pair.slave.elcr &&& ~~~img.pair.slave.elcrMask = 0 →
      s.admits img = true → step s = .next { s with inputs := rest, pair := img.pair, io := img.io }) ∧
    (img.pair.master.elcr &&& ~~~img.pair.master.elcrMask ≠ 0 ∨ img.pair.slave.elcr &&& ~~~img.pair.slave.elcrMask ≠ 0 →
      step s = .refused .restoredElcrOutsideMask)

/-- Rule R171: what a block saved, a block of the same construction restores, register by register. It rests on
decision D48 and on log entry 9. -/
def Obligations.RestoreOfASaveGivesTheSavedRegisters : Prop :=
  ∀ (s u : State) (rest : List Input), s.inv = true → u.params = s.params →
    u.pair.master.elcrMask = s.pair.master.elcrMask → u.pair.slave.elcrMask = s.pair.slave.elcrMask →
    u.inputs = .restore s.save :: rest → step u = .next { u with inputs := rest, pair := s.pair, io := s.io }

/-! Invariants of the whole machine. -/

/-- Rules R20, R21, R26, R34: the invariant holds right after reset, and the output is settled there. The reset values
are the spec's own decisions D15, D16, D17 and D34, and the model's default parameters (log entries 3 and 10). -/
def Obligations.ResetMeetsTheInvariantAndIsSettled : Prop := State.reset.inv = true ∧ State.reset.settled

/-- Rules R20, R21, R26, R34: every step keeps the invariant, whatever the world does. The variant record is the
spec's own decision D1, and what a restore admits is the model's reading (log entry 9). -/
def Obligations.EveryStepKeepsTheInvariant : Prop :=
  ∀ s t : State, s.inv = true → step s = .next t → t.inv = true

/-- Rules R7, R15, R170: no step changes a parameter of the block or a channel's `elcrMask`. -/
def Obligations.NoStepChangesAParameter : Prop :=
  ∀ s t : State, step s = .next t → t.params = s.params ∧ t.pair.master.elcrMask = s.pair.master.elcrMask ∧
    t.pair.slave.elcrMask = s.pair.slave.elcrMask

/-- Rules R84, R85, R87, R90: every operation keeps the output settled, so `intOut` is always the output of the
present state and master pin 2 always carries the slave's winner. That every write recomputes, and that the slave
drives master pin 2 directly, are the spec's own decisions D6, D13 and D16. -/
def Obligations.EveryOperationKeepsTheOutputSettled : Prop :=
  ∀ (i : Instr) (s t : State), s.settled → exec i s = .next t → t.settled

/-- Rule R37: no rule of one controller reads the other's state. What an operation does to the PIC pair depends on the PIC
pair alone, and what it does to the I/O APIC depends on the I/O APIC, the parameters and the world's answers alone. -/
def Obligations.NeitherControllerReadsTheOther : Prop :=
  (∀ (i : Instr) (s u s' u' : State), s.pair = u.pair → exec i s = .next s' → exec i u = .next u' →
    s'.pair = u'.pair ∧ ∃ sent, s'.picOut = sent ++ s.picOut ∧ u'.picOut = sent ++ u.picOut) ∧
  (∀ (i : Instr) (s u s' u' : State), s.params = u.params → s.io = u.io → s.hookCalls = u.hookCalls →
    s.targetScript = u.targetScript → exec i s = .next s' → exec i u = .next u' →
    s'.io = u'.io ∧ s'.hookCalls = u'.hookCalls ∧ s'.targetScript = u'.targetScript ∧
      ∃ sent, s'.ioOut = sent ++ s.ioOut ∧ u'.ioOut = sent ++ u.ioOut)

/-- Rule R18: bit `p` of `serviceReg` is set only by an acknowledge or a poll whose winner on the channel is `p`, and only
with `autoEoi = 0`; it is cleared only by the EOI commands of its channel, by ICW1 on it and by the device reset. -/
def Obligations.ServiceBitsHaveTheirWriters : Prop :=
  ∀ (i : Instr) (s t : State) (c : ChannelId) (p : Pin), exec i s = .next t →
    (hasBit (s.chan c).serviceReg p = false → hasBit (t.chan c).serviceReg p = true →
      (s.chan c).autoEoi = false ∧ setsService c (s.chan c).pollModeActive i = true ∧ s.winner c = some p) ∧
    (hasBit (s.chan c).serviceReg p = true → hasBit (t.chan c).serviceReg p = false → clearsService c i = true)

/-- Rule R16: but for master pin 2, which carries the slave, a request appears only by a SetLine call. The cascade's
own writes are the spec's decision D6. -/
def Obligations.NewRequestsComeOnlyFromTheLines : Prop :=
  ∀ (i : Instr) (s t : State) (c : ChannelId) (p : Pin), exec i s = .next t → ¬(c = .master ∧ p = 2) →
    hasBit (s.chan c).requestReg p = false → hasBit (t.chan c).requestReg p = true →
    ∃ line level tag, i = .picSetline line level tag

/-- Rules R15, R20, R21, R22: the mask, the vector base and the trigger modes of a channel have one writer each beside
a reset. What the resets clear is the spec's own decision D34. -/
def Obligations.ChannelSetupHasItsWriters : Prop :=
  ∀ (i : Instr) (s t : State) (c : ChannelId), exec i s = .next t → i ≠ .reset →
    (∀ ic4 sngl adi ltim hi, i ≠ .icw1 c ic4 sngl adi ltim hi) →
    ((t.chan c).maskReg ≠ (s.chan c).maskReg → ∃ v, i = .ocw1 c v) ∧
    ((t.chan c).vectorBase ≠ (s.chan c).vectorBase → ∃ v, i = .icw2 c v) ∧
    ((t.chan c).elcr ≠ (s.chan c).elcr → ∃ v, i = .elcrWr c v)

/-- Rules R35, R134, R157: `remoteIrr` of an entry is cleared only by an EOI that matches the level entry, or by the
device reset. That the device reset clears it is the spec's own decision D17. -/
def Obligations.RemoteIrrIsClearedOnlyByAMatchingEoi : Prop :=
  ∀ (i : Instr) (s t : State) (p : Nat), s.inv = true → exec i s = .next t → rteRemoteIrr (s.rte p) = true →
    rteRemoteIrr (t.rte p) = false →
    i = .reset ∨ (rteLevel (s.rte p) = true ∧ eoiVector i = some (rteVector (s.rte p)))

/-- Rules R28, R122: no operation but the device reset changes a `deliveryStatus` bit. That nothing sets it is the
spec's own decision D18. -/
def Obligations.DeliveryStatusNeverChanges : Prop :=
  ∀ (i : Instr) (s t : State) (p : Nat), s.inv = true → exec i s = .next t → i ≠ .reset →
    rteDeliveryStatus (t.rte p) = rteDeliveryStatus (s.rte p)

/-- Rule R35: while every entry is masked, nothing but a message or a write of a low word makes an attempt. -/
def Obligations.NoAttemptWhileEveryEntryIsMasked : Prop :=
  ∀ (i : Instr) (s t : State), s.inv = true → (∀ p, p < s.record.pinCount → rteMasked (s.rte p) = true) →
    (∀ fields tag, i ≠ .ioSendmsi fields tag) → (∀ pin value, i ≠ .rteLoWr pin value) → exec i s = .next t →
    t.hookCalls = s.hookCalls

/-! Reset. -/

/-- Rule R157, with R156 and R159: the device reset. On each channel every field is 0 but `elcr` and `elcrMask`,
`intOut` is 0 after one `intrLower`, the I/O APIC takes its reset values, and no attempt is made. The values are the
spec's own decisions D13, D15, D16, D17 and D34. -/
def Obligations.DeviceResetLeavesTheResetValues : Prop :=
  ∀ s : State, ∃ t, exec .reset s = .next t ∧
    t.pair = { master := { PicChannel.powerOn s.pair.master.elcrMask with elcr := s.pair.master.elcr }
               slave := { PicChannel.powerOn s.pair.slave.elcrMask with elcr := s.pair.slave.elcr }
               intOut := false } ∧
    t.picOut = .intrLower :: s.picOut ∧
    t.io = { selectedIndex := 0, apicId := s.params.ioapicResetId &&& s.record.idMask
             rte := List.replicate s.record.pinCount 0x0000000000010000, pendingLevelBitmap := 0, flipFlopBitmap := 0
             traceTag := List.replicate s.record.pinCount 0, suppressedCount := 0, redundantCount := 0 } ∧
    t.params = s.params ∧ t.ioOut = s.ioOut ∧ t.hookCalls = s.hookCalls ∧ t.targetScript = s.targetScript ∧
    t.inputs = s.inputs

/-! Priority. -/

/-- Rule R81: `getPriority` is 8 on no pins, else the least rotation offset of a pin of the set; the pin of that offset is
the highest-priority one. -/
def Obligations.PriorityIsTheLeastRotationOffset : Prop :=
  ∀ (base : Pin) (m : Byte), (m = 0 → getPriority base m = 8) ∧
    (m ≠ 0 → ∃ w, highestIn base m w ∧ getPriority base m = priorityOffset base w) ∧
    ∀ w, highestIn base m w → getPriority base m = priorityOffset base w

/-- Rule R82: the winner is the highest-priority unmasked request, if it beats every pin in service that counts. -/
def Obligations.WinnerBeatsEveryCountedPinInService : Prop :=
  ∀ (c : ChannelId) (ch : PicChannel) (w : Pin),
    let unmasked := if ch.specialMaskActive then ch.serviceReg &&& ~~~ch.maskReg else ch.serviceReg
    let counted := if c = .master ∧ ch.speciallyNestedMode = true then unmasked &&& ~~~0x04#8 else unmasked
    getPendingIrq c ch = some w ↔
      highestIn ch.priorityBase (ch.requestReg &&& ~~~ch.maskReg) w ∧
        ∀ q, hasBit counted q = true → priorityOffset ch.priorityBase w < priorityOffset ch.priorityBase q

/-- Rule R85, with R83 and R84: updateDelivery returns in its first pass, changes only master pin 2 and the output,
leaves the output settled, and done twice it changes no state the second time and makes the same output call again.
The cascade step and the repeated events are the spec's own decisions D6 and D16. -/
def Obligations.UpdateDeliverySettlesTheOutputOnce : Prop :=
  ∀ s : State, s.deliveryPass.2 = true ∧ s.pairBecame s.pair.master s.pair.slave [] [] s.updateDelivery ∧
    s.updateDelivery.updateDelivery =
      { s.updateDelivery with picOut := lineEvent s.updateDelivery.pair.intOut :: s.updateDelivery.picOut }

/-- Rule R88: a PIC vector is the five high bits of the vector base and the pin, and the sum never carries. The rule
is the spec's inference from rule R20. -/
def Obligations.VectorIsBaseAndPin : Prop :=
  ∀ (ch : PicChannel) (p : Pin), ch.vectorBase &&& 0x07 = 0 →
    vectorOf ch p = ch.vectorBase ||| p.setWidth 8 ∧ (vectorOf ch p).extractLsb' 3 5 = ch.vectorBase.extractLsb' 3 5 ∧
      (vectorOf ch p).extractLsb' 0 3 = p

/-! The command byte. -/

/-- Rule R91: ICW1 resets its channel but for `elcr`, `elcrMask` and the tags, starts the init sequence, remembers
whether an ICW4 comes, and logs the two unsupported bits. Which fields the reset covers and where the bits sit are the
spec's own decisions D9 and D34. -/
def Obligations.InitCommandResetsItsChannel : Prop :=
  ∀ (c : ChannelId) (ic4 sngl adi ltim : Bool) (hi : BitVec 3) (s : State),
    ∃ t, exec (.icw1 c ic4 sngl adi ltim hi) s = .next t ∧
      s.chanBecame c
        { PicChannel.powerOn (s.chan c).elcrMask with
          elcr := (s.chan c).elcr, traceTag := (s.chan c).traceTag, initStep := 1, expectsFourthInitByte := ic4 }
        ((if ltim then [.log .protocol] else []) ++ if sngl then [.log .protocol] else []) [] t

/-- Rules R92, R96: OCW2 codes 0 and 4 assign `rotateOnAutoEoi` and do nothing else to the channel. That code 0 clears
the flag is the spec's own decision D10. -/
def Obligations.RotateFlagCommandsAssignTheFlag : Prop :=
  ∀ (c : ChannelId) (l : Pin) (s : State),
    (∃ t, exec (.ocw2RotateAeoiClear c l) s = .next t ∧
      s.chanBecame c { s.chan c with rotateOnAutoEoi := false } [] [] t) ∧
    ∃ t, exec (.ocw2RotateAeoiSet c l) s = .next t ∧ s.chanBecame c { s.chan c with rotateOnAutoEoi := true } [] [] t

/-- Rules R93, R97: a non-specific EOI clears the highest-priority bit of the raw `serviceReg`, and its rotating form
moves the priority base past it; with no pin in service neither changes the channel. That the raw `serviceReg` decides
is the spec's own decision D8. -/
def Obligations.NonSpecificEoiClearsTheHighestPinInService : Prop :=
  ∀ (c : ChannelId) (l : Pin) (s : State),
    (∃ t, exec (.ocw2Nseoi c l) s = .next t ∧
      ((s.chan c).serviceReg = 0 → s.chanBecame c (s.chan c) [] [] t) ∧
      ∀ w, highestIn (s.chan c).priorityBase (s.chan c).serviceReg w →
        s.chanBecame c { s.chan c with serviceReg := (s.chan c).serviceReg &&& ~~~(1#8 <<< w.toNat) } [] [] t) ∧
    ∃ t, exec (.ocw2Rnseoi c l) s = .next t ∧
      ((s.chan c).serviceReg = 0 → s.chanBecame c (s.chan c) [] [] t) ∧
      ∀ w, highestIn (s.chan c).priorityBase (s.chan c).serviceReg w →
        s.chanBecame c
          { s.chan c with serviceReg := (s.chan c).serviceReg &&& ~~~(1#8 <<< w.toNat), priorityBase := w + 1 } [] [] t

/-- Rule R94: OCW2 code 2 changes nothing but what its tail recomputes; on a settled block that is nothing at all. The
rule is the spec's own decision D11. -/
def Obligations.NopCommandChangesNothing : Prop :=
  ∀ (c : ChannelId) (l : Pin) (s : State), ∃ t, exec (.ocw2Nop c l) s = .next t ∧ s.chanBecame c (s.chan c) [] [] t ∧
    (s.settled → t = { s with picOut := lineEvent s.pair.intOut :: s.picOut })

/-- Rules R95, R98, R99: the specific EOI, the set-priority command and the specific rotate EOI act on the pin of the
command byte, whether or not it is in service. -/
def Obligations.SpecificCommandsActOnTheirPin : Prop :=
  ∀ (c : ChannelId) (pin : Pin) (s : State),
    (∃ t, exec (.ocw2Seoi c pin) s = .next t ∧
      s.chanBecame c { s.chan c with serviceReg := (s.chan c).serviceReg &&& ~~~(1#8 <<< pin.toNat) } [] [] t) ∧
    (∃ t, exec (.ocw2Setprio c pin) s = .next t ∧ s.chanBecame c { s.chan c with priorityBase := pin + 1 } [] [] t) ∧
    ∃ t, exec (.ocw2Rseoi c pin) s = .next t ∧
      s.chanBecame c
        { s.chan c with serviceReg := (s.chan c).serviceReg &&& ~~~(1#8 <<< pin.toNat), priorityBase := pin + 1 } [] [] t

/-- Rule R100: OCW3 writes each of its three flags only when that flag's enable bit is set, and never cancels a poll.
The bit positions are the spec's own decision D9. -/
def Obligations.ModeCommandWritesTheEnabledFlags : Prop :=
  ∀ (c : ChannelId) (ris rr poll smm esmm b7 : Bool) (s : State),
    ∃ t, exec (.ocw3 c ris rr poll smm esmm b7) s = .next t ∧
      s.chanBecame c
        { s.chan c with
          pollModeActive := poll || (s.chan c).pollModeActive
          readRegisterSelect := bif rr then ris else (s.chan c).readRegisterSelect
          specialMaskActive := bif esmm then smm else (s.chan c).specialMaskActive } [] [] t

/-! The data byte and the ELCR port. -/

/-- Rule R101: OCW1 writes the mask register and nothing else of the channel. -/
def Obligations.MaskWriteReplacesTheMask : Prop :=
  ∀ (c : ChannelId) (v : Byte) (s : State),
    ∃ t, exec (.ocw1 c v) s = .next t ∧ s.chanBecame c { s.chan c with maskReg := v } [] [] t

/-- Rules R102, R103, and rule R104 with the bit positions of the spec's own decision D9: the three init bytes. -/
def Obligations.InitBytesSetTheirFields : Prop :=
  ∀ (c : ChannelId) (s : State),
    (∀ v, ∃ t, exec (.icw2 c v) s = .next t ∧
      s.chanBecame c { s.chan c with vectorBase := v.extractLsb' 3 5 ++ 0#3, initStep := 2 } [] [] t) ∧
    (∀ v, ∃ t, exec (.icw3 c v) s = .next t ∧
      s.chanBecame c { s.chan c with initStep := bif (s.chan c).expectsFourthInitByte then 3 else 0 } [] [] t) ∧
    ∀ upm aeoi ms buf sfnm hi, ∃ t, exec (.icw4 c upm aeoi ms buf sfnm hi) s = .next t ∧
      s.chanBecame c { s.chan c with speciallyNestedMode := sfnm, autoEoi := aeoi, initStep := 0 } [] [] t

/-- Rule R105: the init sequence of a channel as a state machine. A port+1 write at step 0, 1, 2 or 3 is OCW1, ICW2,
ICW3 or ICW4 and leads to step 0, 2, 3 or 0, and 0; an ICW1 takes every step to 1; an OCW2 or OCW3 leaves the step.
The rule is the spec's inference from rules R91 and R101 to R104. -/
def Obligations.InitSequenceIsAStateMachine : Prop :=
  ∀ (c : ChannelId) (v : Byte) (s : State),
    (∃ t, exec (decodeData (s.chan c).initStep c v) s = .next t ∧
      ((s.chan c).initStep = 0 → decodeData (s.chan c).initStep c v = .ocw1 c v ∧ (t.chan c).initStep = 0) ∧
      ((s.chan c).initStep = 1 → decodeData (s.chan c).initStep c v = .icw2 c v ∧ (t.chan c).initStep = 2) ∧
      ((s.chan c).initStep = 2 → decodeData (s.chan c).initStep c v = .icw3 c v ∧
        (t.chan c).initStep = if (s.chan c).expectsFourthInitByte = true then 3 else 0) ∧
      ((s.chan c).initStep = 3 →
        decodeData (s.chan c).initStep c v =
          .icw4 c (v.getLsbD 0) (v.getLsbD 1) (v.getLsbD 2) (v.getLsbD 3) (v.getLsbD 4) (v.extractLsb' 5 3) ∧
        (t.chan c).initStep = 0)) ∧
    ∃ t, exec (decodeCommand c v) s = .next t ∧
      (t.chan c).initStep = if v.getLsbD 4 = true then 1 else (s.chan c).initStep

/-- Rule R109: an ELCR write stores `v & elcrMask` and leaves the requests and their shadow alone. That the write
stores the masked value is the spec's own decision D15. -/
def Obligations.TriggerModeWriteIsMasked : Prop :=
  ∀ (c : ChannelId) (v : Byte) (s : State),
    ∃ t, exec (.elcrWr c v) s = .next t ∧
      s.chanBecame c { s.chan c with elcr := v &&& (s.chan c).elcrMask } [] [] t ∧
      (t.chan c).elcr &&& ~~~(t.chan c).elcrMask = 0

/-- Rules R106, R110: the port reads that change nothing return the register the rule names; a port+0 read with a poll
armed is the poll. That a port+1 read returns the mask in every init step is the spec's own decision D14 (rule R108).
-/
def Obligations.PortReadsReturnTheirRegister : Prop :=
  ∀ (c : ChannelId) (s : State),
    ((s.chan c).pollModeActive = false → exec (.rdIrrIsr c) s = .next { s with
      picOut := .portByte (if (s.chan c).readRegisterSelect = true then (s.chan c).serviceReg
        else (s.chan c).requestReg) :: s.picOut }) ∧
    ((s.chan c).pollModeActive = true → exec (.rdIrrIsr c) s = exec (.rdPoll c) s) ∧
    exec (.rdImr c) s = .next { s with picOut := .portByte (s.chan c).maskReg :: s.picOut } ∧
    exec (.elcrRd c) s = .next { s with picOut := .portByte (s.chan c).elcr :: s.picOut }

/-! Acknowledge, poll and lines. -/

/-- Rule R86: the acknowledge bookkeeping of a winner. -/
def Obligations.AcknowledgeBookkeepingOfAWinner : Prop :=
  ∀ (ch : PicChannel) (w : Pin), intack ch w = { ch with
    priorityBase := if ch.autoEoi = true ∧ ch.rotateOnAutoEoi = true then w + 1 else ch.priorityBase
    serviceReg := if ch.autoEoi = true then ch.serviceReg else ch.serviceReg ||| (1#8 <<< w.toNat)
    requestReg := if hasBit ch.elcr w = true then ch.requestReg else ch.requestReg &&& ~~~(1#8 <<< w.toNat) }

/-- Rule R87: AcknowledgeVector, in its four cases: spurious on the master, a master pin, spurious on the slave, and a
slave pin through master pin 2. Where the output is settled, master pin 2 wins only with a slave winner behind it, so
the third case is one of restored states alone. The bookkeeping of a cascaded and of a spurious acknowledge is the
spec's own decision D7. -/
def Obligations.AcknowledgeReturnsTheWinnersVector : Prop :=
  ∀ s : State, (s.settled → s.winner .master = some 2 → ∃ w, s.winner .slave = some w) ∧
    ∃ t, exec .picAck s = .next t ∧
    (s.winner .master = none →
      s.pairBecame s.pair.master s.pair.slave [] [.acknowledged (s.pair.master.vectorBase + 7) 0] t) ∧
    (∀ m, s.winner .master = some m → m ≠ 2 →
      s.pairBecame (setTag (intack s.pair.master m) m 0) s.pair.slave []
        [.acknowledged (s.pair.master.vectorBase + m.setWidth 8) (tagOf s.pair.master m)] t) ∧
    (s.winner .master = some 2 → s.winner .slave = none →
      s.pairBecame (intack s.pair.master 2) s.pair.slave [] [.acknowledged (s.pair.slave.vectorBase + 7) 0] t) ∧
    ∀ w, s.winner .master = some 2 → s.winner .slave = some w →
      s.pairBecame (intack s.pair.master 2) (setTag (intack s.pair.slave w) w 0) []
        [.acknowledged (s.pair.slave.vectorBase + w.setWidth 8) (tagOf s.pair.slave w)] t

/-- Rule R107: a poll read ends the poll, and with a winner it does the acknowledge bookkeeping on its channel, zeroes
the winner's tag and returns `0x80 | w`. The poll word and its bookkeeping are the spec's own decision D12. -/
def Obligations.PollAcknowledgesOnItsChannel : Prop :=
  ∀ (c : ChannelId) (s : State), ∃ t, exec (.rdPoll c) s = .next t ∧
    (s.winner c = none → s.chanBecame c { s.chan c with pollModeActive := false } [] [.portByte 0x00] t) ∧
    ∀ w, s.winner c = some w →
      s.chanBecame c (setTag (intack { s.chan c with pollModeActive := false } w) w 0) []
        [.portByte (0x80 ||| w.setWidth 8)] t

/-- Rule R79: the merge of trace tags. The width and the saturation bit are the spec's own decision D5. -/
def Obligations.TagMergeKeepsTheFirstAndMarksACollision : Prop :=
  ∀ cur new : Tag, (new = 0 ∨ new = cur → tagMerge cur new = cur) ∧
    (new ≠ 0 → cur = 0 → tagMerge cur new = new) ∧
    (new ≠ 0 → new ≠ cur → cur ≠ 0 → tagMerge cur new = cur ||| 0x80000000)

/-- Rules R77, R78: a High or a Low on a line of the pair; a line above 15 belongs to no pin. What becomes of the tag,
and of a line above 15, are the spec's own decisions D5 and D29. That a lone High requests on an edge pin whose shadow
an ICW1 or a reset has cleared is the model's choice between rules R78 and R164 (log entry 28). -/
def Obligations.LineCallsDriveTheirPin : Prop :=
  ∀ (line : BitVec 16) (tag : Tag) (s : State),
    let c : ChannelId := if line.toNat < 8 then .master else .slave
    let p : Pin := BitVec.ofNat 3 line.toNat
    let ch := s.chan c
    (16 ≤ line.toNat → ∀ level,
      exec (.picSetline line level tag) s = .next { s with picOut := .log .addressing :: s.picOut }) ∧
    (line.toNat < 16 → ∃ t, exec (.picSetline line .low tag) s = .next t ∧
      s.chanBecame c { ch with
        requestReg := ch.requestReg &&& ~~~(1#8 <<< p.toNat)
        lastRequestReg := ch.lastRequestReg &&& ~~~(1#8 <<< p.toNat) } [] [] t) ∧
    (line.toNat < 16 → ∃ t, exec (.picSetline line .high tag) s = .next t ∧
      s.chanBecame c { ch with
        requestReg := if hasBit ch.elcr p = false ∧ hasBit ch.lastRequestReg p = true then ch.requestReg
          else ch.requestReg ||| (1#8 <<< p.toNat)
        lastRequestReg := ch.lastRequestReg ||| (1#8 <<< p.toNat)
        traceTag := ch.traceTag.set p.toNat (tagMerge ch.traceTag[p.toNat] tag) } [] [] t)

/-- Rules R77, R80: a flip-flop is a Low and then a High, each with its recomputation; but for master pin 2 it leaves
the pin requested and its line seen asserted, whatever the trigger mode and the earlier level. Rule R80 is the spec's
inference from rule R78. -/
def Obligations.FlipFlopIsALowThenAHigh : Prop :=
  ∀ (line : BitVec 16) (tag : Tag) (s : State), line.toNat < 16 →
    ∃ u t, exec (.picSetline line .low tag) s = .next u ∧ exec (.picSetline line .high tag) u = .next t ∧
      exec (.picSetline line .flipFlop tag) s = .next t ∧
      (line.toNat ≠ 2 →
        hasBit (t.chan (if line.toNat < 8 then .master else .slave)).requestReg (BitVec.ofNat 3 line.toNat) = true ∧
        hasBit (t.chan (if line.toNat < 8 then .master else .slave)).lastRequestReg (BitVec.ofNat 3 line.toNat) = true)

/-! The registers of the I/O APIC. -/

/-- Rules R111, R116: a write of the index register keeps the low byte, and a write of the identification register the top
byte inside the variant's width. Beside them stand the other reads and writes of the index, identification, version and
arbitration registers, whose formats are the spec's own decisions D19, D20 and D21 (rules R112, R115, R117 to R120). -/
def Obligations.SmallRegistersReadAndWrite : Prop :=
  ∀ (s : State) (value : Word),
    exec (.mmioIdxWr value) s = .next { s with io := { s.io with selectedIndex := value.setWidth 8 } } ∧
    exec .mmioIdxRd s = .next { s with ioOut := .mmioWord (0#24 ++ s.io.selectedIndex) :: s.ioOut } ∧
    exec (.idWr value) s = .next { s with io := { s.io with apicId := value.extractLsb' 24 8 &&& s.record.idMask } } ∧
    exec .idRd s = .next { s with ioOut := .mmioWord (s.io.apicId ++ 0#24) :: s.ioOut } ∧
    exec (.verWr value) s = .next s ∧
    exec .verRd s = .next { s with
      ioOut := .mmioWord (0#8 ++ BitVec.ofNat 8 (s.record.pinCount - 1) ++ 0#8 ++ s.record.versionByte) :: s.ioOut } ∧
    exec (.arbWr value) s = .next s ∧
    exec .arbRd s = .next { s with ioOut := .mmioWord (s.io.apicId ++ 0#24) :: s.ioOut }

/-- Rules R124, R125: an access whose index names no register returns all ones or drops its value, and is logged. Which
indices those are is stated too, and the same of the page offsets that name no register; for the offsets it is the spec's own
decision D22 (rule R127). -/
def Obligations.UnnamedRegistersReadAllOnesAndDropWrites : Prop :=
  ∀ (s : State) (value : Word) (i : Byte) (off : BitVec 12),
    let noRegister := (i = 0x02 ∧ s.record.hasArbReg = false) ∨ (0x03 ≤ i.toNat ∧ i.toNat ≤ 0x0F) ∨
      s.record.lastIndex < i.toNat
    (decodeDataRead s.record i = .unusedRd ↔ noRegister) ∧
    (decodeDataWrite s.record i value = .unusedWr value ↔ noRegister) ∧
    (decodeMmioRead s.decodeMode off = .mmioOtherRd off ↔ off ≠ 0x00 ∧ off ≠ 0x10) ∧
    (decodeMmioWrite s.decodeMode off value = .mmioOtherWr off value ↔
      off ≠ 0x00 ∧ off ≠ 0x10 ∧ ¬(off = 0x40 ∧ s.record.hasEoiReg = true)) ∧
    exec .unusedRd s = .next { s with ioOut := .mmioWord 0xFFFFFFFF :: .log .addressing :: s.ioOut } ∧
    exec (.unusedWr value) s = .next { s with ioOut := .log .addressing :: s.ioOut } ∧
    exec (.mmioOtherRd off) s = .next { s with ioOut := .mmioWord 0xFFFFFFFF :: .log .addressing :: s.ioOut } ∧
    exec (.mmioOtherWr off value) s = .next { s with ioOut := .log .addressing :: s.ioOut }

/-- Rule R121: a read of half an entry returns its bits, masked by the read mask, and changes nothing. How the read
mask applies is the spec's own decision D47. -/
def Obligations.EntryReadsReturnTheMaskedHalf : Prop :=
  ∀ (s : State) (p : Nat),
    (∃ w : Word, exec (.rteLoRd p) s = .next { s with ioOut := .mmioWord w :: s.ioOut } ∧
      ∀ k < 32, w.getLsbD k = ((s.rte p).getLsbD k && s.record.rteReadMask.getLsbD k)) ∧
    ∃ w : Word, exec (.rteHiRd p) s = .next { s with ioOut := .mmioWord w :: s.ioOut } ∧
      ∀ k < 32, w.getLsbD k = ((s.rte p).getLsbD (32 + k) && s.record.rteReadMask.getLsbD (32 + k))

/-- Rule R122: a write of half an entry merges the value through the write mask, bit by bit, leaves the other half
alone, and then makes the delivery decision for the pin if, and only if, it is pending. How the write mask applies is
the spec's own decision D47. -/
def Obligations.EntryWritesMergeAndMayDeliver : Prop :=
  ∀ (s : State) (p : Nat) (value : Word),
    (∃ e t, (∀ k < 64, e.getLsbD k = if k < 32 ∧ s.record.rteWriteMask.getLsbD k = true then value.getLsbD k
        else (s.rte p).getLsbD k) ∧
      exec (.rteLoWr p value) s = .next t ∧
      (s.pending p = false → t = { s with io := { s.io with rte := s.io.rte.set p e } }) ∧
      (s.pending p = true → ({ s with io := { s.io with rte := s.io.rte.set p e } } : State).signalled p t)) ∧
    ∃ e t, (∀ k < 64, e.getLsbD k = if 32 ≤ k ∧ s.record.rteWriteMask.getLsbD k = true then value.getLsbD (k - 32)
        else (s.rte p).getLsbD k) ∧
      exec (.rteHiWr p value) s = .next t ∧
      (s.pending p = false → t = { s with io := { s.io with rte := s.io.rte.set p e } }) ∧
      (s.pending p = true → ({ s with io := { s.io with rte := s.io.rte.set p e } } : State).signalled p t)

/-- Rule R123, for every value written to either half: the merge never reaches `deliveryStatus` or `remoteIrr`. So
`deliveryStatus` stays; and `remoteIrr` stays too, unless the pin is pending, its entry as written is unmasked and level, and
the one attempt that the write makes is accepted: then it goes from 0 to 1. All ones written to the low word mask the entry
and make no attempt, so there both bits stay (on a variant on which `mask` can be written). The rule is the spec's inference
from rules R122 and R131. -/
def Obligations.WritesNeverReachTheReadOnlyBits : Prop :=
  ∀ (s t : State) (p : Nat) (value : Word), s.inv = true →
    (exec (.rteLoWr p value) s = .next t ∨ exec (.rteHiWr p value) s = .next t →
      rteDeliveryStatus (t.rte p) = rteDeliveryStatus (s.rte p) ∧
      (rteRemoteIrr (t.rte p) = rteRemoteIrr (s.rte p) ∨
        (rteRemoteIrr (s.rte p) = false ∧ rteRemoteIrr (t.rte p) = true ∧ s.pending p = true ∧
          rteMasked (t.rte p) = false ∧ rteLevel (t.rte p) = true ∧
          ∃ r, t.ioOut = .attempt r .accept :: s.ioOut ∧ t.hookCalls = s.hookCalls + 1))) ∧
    (s.record.rteWriteMask.getLsbD 16 = true → exec (.rteLoWr p 0xFFFFFFFF) s = .next t →
      rteDeliveryStatus (t.rte p) = rteDeliveryStatus (s.rte p) ∧ rteRemoteIrr (t.rte p) = rteRemoteIrr (s.rte p) ∧
        t.ioOut = s.ioOut ∧ t.hookCalls = s.hookCalls)

/-! Delivery. -/

/-- Rules R129, R130: one call of the delivery path consults the hook and, unless it discards, makes one attempt; it
changes no register. With the default hook the descriptor reaches the target as it is. The answers are free values
(decisions D26 and D27, log entries 1 and 2). -/
def Obligations.DeliveryConsultsTheHookAndTheTarget : Prop :=
  ∀ (s : State) (d : Descriptor), s.attempted d (s.deliver d).2 (s.deliver d).1 ∧ s.ioFrame (s.deliver d).1 ∧
    (s.deliver d).1.io = s.io ∧ (s.params.remap = .identity → s.remapped d = some d)

/-- Rule R131: the delivery decision for one pin. The fields of the descriptor are the spec's own decision D25. -/
def Obligations.DeliveryDecisionFollowsTheEntry : Prop :=
  ∀ (s : State) (p : Nat), s.signalled p (s.signalPending p)

/-- Rules R132, R133: SetLine on a pin of the I/O APIC, in its five cases: a missing pin, a Low, a flip-flop, a first
High and a repeated High. The pin range, the flip-flop's pending bit and the Low's flip-flop bit are the spec's own
decisions D29, D32 and D33. -/
def Obligations.IoLineCallsDriveTheirPin : Prop :=
  ∀ (s : State) (pin : Byte) (tag : Tag) (level : IoLevel) (ff : Bool),
    let p := pin.toNat
    let tags := s.io.traceTag.set p (tagMerge (s.ioTag p) tag)
    (s.record.pinCount ≤ p →
      exec (.ioSetline pin level tag ff) s = .next { s with ioOut := .log .addressing :: s.ioOut }) ∧
    (p < s.record.pinCount → exec (.ioSetline pin .low tag false) s = .next { s with io := { s.io with
      pendingLevelBitmap := s.io.pendingLevelBitmap &&& ~~~(1#maxPins <<< p), traceTag := s.io.traceTag.set p 0 } }) ∧
    (p < s.record.pinCount → ∃ t, exec (.ioSetline pin level tag true) s = .next t ∧
      ({ s with io := { s.io with
        traceTag := tags
        flipFlopBitmap := s.io.flipFlopBitmap ||| (1#maxPins <<< p)
        pendingLevelBitmap := s.io.pendingLevelBitmap ||| (1#maxPins <<< p) } } : State).signalled p t) ∧
    (p < s.record.pinCount → s.pending p = false → ∃ t, exec (.ioSetline pin .high tag false) s = .next t ∧
      ({ s with io := { s.io with
        traceTag := tags
        flipFlopBitmap := s.io.flipFlopBitmap &&& ~~~(1#maxPins <<< p)
        pendingLevelBitmap := s.io.pendingLevelBitmap ||| (1#maxPins <<< p) } } : State).signalled p t) ∧
    (p < s.record.pinCount → s.pending p = true → ∃ t, exec (.ioSetline pin .high tag false) s = .next t ∧
      let counted : State := { s with io := { s.io with
        traceTag := tags
        flipFlopBitmap := s.io.flipFlopBitmap &&& ~~~(1#maxPins <<< p)
        redundantCount := s.io.redundantCount + 1 } }
      (rteLevel (s.rte p) = true → counted.signalled p t) ∧ (rteLevel (s.rte p) = false → t = counted))

/-- Rules R130, R134: SetEoi visits the pins one after another; `visited p` is the state before the visit of pin `p`. A
level entry with the vector loses `remoteIrr`. If its pin is pending and unmasked, its visit makes one attempt, with the
descriptor of rule R128, and the bit is set again exactly where that attempt is accepted: a refusal, by the target or by the
hook, leaves it clear. No other visit makes an attempt. Every other bit of every entry, and every other register, stays. The
order of the visits is the spec's own decision D24. -/
def Obligations.EoiClearsEveryMatchingEntry : Prop :=
  ∀ (s : State) (vector : Byte), s.inv = true → ∃ (t : State) (visited : Nat → State),
    exec (.ioSeteoi vector) s = .next t ∧ visited 0 = s ∧ visited s.record.pinCount = t ∧ s.ioFrame t ∧
    t.io = { s.io with rte := t.io.rte } ∧ t.io.rte.length = s.io.rte.length ∧
    ∀ p, (¬(p < s.record.pinCount ∧ rteLevel (s.rte p) = true ∧ rteVector (s.rte p) = vector) → t.rte p = s.rte p) ∧
      (p < s.record.pinCount → (visited p).params = s.params ∧
        (s.reattempted vector p = false →
          (visited (p + 1)).ioOut = (visited p).ioOut ∧ (visited (p + 1)).hookCalls = (visited p).hookCalls ∧
          (visited (p + 1)).targetScript = (visited p).targetScript ∧
          (rteLevel (s.rte p) = true → rteVector (s.rte p) = vector → t.rte p = s.rte p &&& ~~~0x4000#64)) ∧
        (s.reattempted vector p = true → ∃ took,
          (visited p).attempted (descriptorOf (s.rte p) (s.ioTag p)) took (visited (p + 1)) ∧
          t.rte p = if took then s.rte p ||| 0x4000#64 else s.rte p &&& ~~~0x4000#64))

/-- Rule R134: the attempts of a SetEoi, with the default hook, are those of the pins to attempt again, one each, in
ascending pin order, with the descriptor of rule R128. The order is the spec's own decision D24. -/
def Obligations.EoiAttemptsThePendingPinsInOrder : Prop :=
  ∀ (s t : State) (vector : Byte), s.inv = true → s.params.remap = .identity → exec (.ioSeteoi vector) s = .next t →
    ∃ answers : List Answer, answers.length = ((List.range s.record.pinCount).filter (s.reattempted vector)).length ∧
      t.ioOut = ((((List.range s.record.pinCount).filter (s.reattempted vector)).map fun p =>
        descriptorOf (s.rte p) (s.ioTag p)).zipWith IoEvent.attempt answers).reverse ++ s.ioOut ∧
      t.hookCalls = s.hookCalls + answers.length

/-- Rule R126: a write of the EOI register is a SetEoi of the low byte. That the vector is the low byte is the spec's
own decision D23. -/
def Obligations.EoiRegisterBroadcastsTheLowByte : Prop :=
  ∀ (value : Word) (s : State), ∃ t, exec (.ioSeteoi (value.setWidth 8)) s = .next t ∧ exec (.mmioEoiWr value) s = .next t

/-- Rule R135: a message makes one call of the delivery path with its own fields and tag, and changes no state of the
I/O APIC. That the message comes decoded is the spec's own decision D28. -/
def Obligations.MessageIsDeliveredDirectly : Prop :=
  ∀ (f : MsiFields) (tag : Tag) (s : State), ∃ took t, exec (.ioSendmsi f tag) s = .next t ∧
    s.attempted { vector := f.vector, deliveryMode := f.deliveryMode, destinationMode := f.destinationMode
                  polarity := f.polarity, triggerMode := f.triggerMode, destination := f.destination
                  extendedDestination := f.extendedDestination, tag := tag } took t ∧
    t.io = s.io ∧ s.ioFrame t

/-- Rule R136: level re-arm. On an unmasked level entry with a hook that does not discard and a target that accepts:
the first High makes one attempt and sets `remoteIrr`; a further High makes none; and an EOI of the vector, which no
other pending level entry holds, makes exactly one more while the line is High. The rule is the spec's inference from
rules R131, R133 and R134. -/
def Obligations.LevelInterruptIsDeliveredOncePerEoi : Prop :=
  ∀ (s : State) (pin : Byte) (tag : Tag), s.inv = true → pin.toNat < s.record.pinCount →
    rteMasked (s.rte pin.toNat) = false → rteLevel (s.rte pin.toNat) = true → s.params.remap = .identity →
    (s.pending pin.toNat = false → rteRemoteIrr (s.rte pin.toNat) = false → s.answer = .accept →
      ∃ t, exec (.ioSetline pin .high tag false) s = .next t ∧ t.hookCalls = s.hookCalls + 1 ∧
        t.pending pin.toNat = true ∧ rteRemoteIrr (t.rte pin.toNat) = true) ∧
    (rteRemoteIrr (s.rte pin.toNat) = true →
      ∃ t, exec (.ioSetline pin .high tag false) s = .next t ∧ t.hookCalls = s.hookCalls ∧ t.ioOut = s.ioOut ∧
        rteRemoteIrr (t.rte pin.toNat) = true) ∧
    (s.pending pin.toNat = true → s.answer = .accept →
      (∀ q, q < s.record.pinCount → q ≠ pin.toNat → s.pending q = true → rteLevel (s.rte q) = true →
        rteVector (s.rte q) ≠ rteVector (s.rte pin.toNat)) →
      ∃ t, exec (.ioSeteoi (rteVector (s.rte pin.toNat))) s = .next t ∧ t.hookCalls = s.hookCalls + 1 ∧
        rteRemoteIrr (t.rte pin.toNat) = true)

/-- Rule R137: masking a pending entry makes no attempt and keeps the pending bit, and unmasking it makes one at once,
but for a level entry whose `remoteIrr` is set. It needs a variant on which `mask` can be written. The rule is the
spec's inference from rules R122 and R131. -/
def Obligations.UnmaskingAPendingEntryAttemptsIt : Prop :=
  ∀ (s : State) (p : Nat) (masking unmasking : Word), s.inv = true → p < s.record.pinCount → s.pending p = true →
    s.record.rteWriteMask.getLsbD 16 = true → masking.getLsbD 16 = true → unmasking.getLsbD 16 = false →
    ∃ t u, exec (.rteLoWr p masking) s = .next t ∧ t.hookCalls = s.hookCalls ∧ t.pending p = true ∧
      exec (.rteLoWr p unmasking) t = .next u ∧
      (rteLevel (u.rte p) = false ∨ rteRemoteIrr (t.rte p) = false → u.hookCalls = t.hookCalls + 1)
end

