-- ==== Sys2Proof/Laws/State.lean ====
section
/-! SUPPORT. One lemma per field per update of the state, each true by rfl, so that no later proof unfolds a record
update; then the accessors over the updates. -/

namespace Sys2Proof.Machine

/-! `setChan`: the two channels, and the fields it leaves alone. -/

@[simp] theorem chan_master (s : State) : s.chan .master = s.pair.master := rfl
@[simp] theorem chan_slave (s : State) : s.chan .slave = s.pair.slave := rfl
@[simp] theorem setChan_master_pair_master (s : State) (ch : PicChannel) : (s.setChan .master ch).pair.master = ch := rfl
@[simp] theorem setChan_master_pair_slave (s : State) (ch : PicChannel) :
    (s.setChan .master ch).pair.slave = s.pair.slave := rfl
@[simp] theorem setChan_slave_pair_master (s : State) (ch : PicChannel) :
    (s.setChan .slave ch).pair.master = s.pair.master := rfl
@[simp] theorem setChan_slave_pair_slave (s : State) (ch : PicChannel) : (s.setChan .slave ch).pair.slave = ch := rfl
@[simp] theorem setChan_intOut (s : State) (c : ChannelId) (ch : PicChannel) :
    (s.setChan c ch).pair.intOut = s.pair.intOut := by cases c <;> rfl
@[simp] theorem setChan_chan_same (s : State) (c : ChannelId) (ch : PicChannel) : (s.setChan c ch).chan c = ch := by
  cases c <;> rfl
@[simp] theorem setChan_params (s : State) (c : ChannelId) (ch : PicChannel) : (s.setChan c ch).params = s.params := by
  cases c <;> rfl
@[simp] theorem setChan_io (s : State) (c : ChannelId) (ch : PicChannel) : (s.setChan c ch).io = s.io := by
  cases c <;> rfl
@[simp] theorem setChan_picOut (s : State) (c : ChannelId) (ch : PicChannel) : (s.setChan c ch).picOut = s.picOut := by
  cases c <;> rfl
@[simp] theorem setChan_ioOut (s : State) (c : ChannelId) (ch : PicChannel) : (s.setChan c ch).ioOut = s.ioOut := by
  cases c <;> rfl
@[simp] theorem setChan_hookCalls (s : State) (c : ChannelId) (ch : PicChannel) : (s.setChan c ch).hookCalls = s.hookCalls := by
  cases c <;> rfl
@[simp] theorem setChan_targetScript (s : State) (c : ChannelId) (ch : PicChannel) : (s.setChan c ch).targetScript = s.targetScript := by
  cases c <;> rfl
@[simp] theorem setChan_inputs (s : State) (c : ChannelId) (ch : PicChannel) : (s.setChan c ch).inputs = s.inputs := by
  cases c <;> rfl

/-! `emitPic` -/

@[simp] theorem emitPic_params (s : State) (e : PicEvent) : (s.emitPic e).params = s.params := rfl
@[simp] theorem emitPic_io (s : State) (e : PicEvent) : (s.emitPic e).io = s.io := rfl
@[simp] theorem emitPic_picOut (s : State) (e : PicEvent) : (s.emitPic e).picOut = e :: s.picOut := rfl
@[simp] theorem emitPic_ioOut (s : State) (e : PicEvent) : (s.emitPic e).ioOut = s.ioOut := rfl
@[simp] theorem emitPic_hookCalls (s : State) (e : PicEvent) : (s.emitPic e).hookCalls = s.hookCalls := rfl
@[simp] theorem emitPic_targetScript (s : State) (e : PicEvent) : (s.emitPic e).targetScript = s.targetScript := rfl
@[simp] theorem emitPic_inputs (s : State) (e : PicEvent) : (s.emitPic e).inputs = s.inputs := rfl
@[simp] theorem emitPic_pair (s : State) (e : PicEvent) : (s.emitPic e).pair = s.pair := rfl

/-! `emitIo` -/

@[simp] theorem emitIo_params (s : State) (e : IoEvent) : (s.emitIo e).params = s.params := rfl
@[simp] theorem emitIo_io (s : State) (e : IoEvent) : (s.emitIo e).io = s.io := rfl
@[simp] theorem emitIo_picOut (s : State) (e : IoEvent) : (s.emitIo e).picOut = s.picOut := rfl
@[simp] theorem emitIo_ioOut (s : State) (e : IoEvent) : (s.emitIo e).ioOut = e :: s.ioOut := rfl
@[simp] theorem emitIo_hookCalls (s : State) (e : IoEvent) : (s.emitIo e).hookCalls = s.hookCalls := rfl
@[simp] theorem emitIo_targetScript (s : State) (e : IoEvent) : (s.emitIo e).targetScript = s.targetScript := rfl
@[simp] theorem emitIo_inputs (s : State) (e : IoEvent) : (s.emitIo e).inputs = s.inputs := rfl
@[simp] theorem emitIo_pair (s : State) (e : IoEvent) : (s.emitIo e).pair = s.pair := rfl

/-! `intrRaise` -/

@[simp] theorem intrRaise_params (s : State) : (s.intrRaise).params = s.params := rfl
@[simp] theorem intrRaise_io (s : State) : (s.intrRaise).io = s.io := rfl
@[simp] theorem intrRaise_picOut (s : State) : (s.intrRaise).picOut = .intrRaise :: s.picOut := rfl
@[simp] theorem intrRaise_ioOut (s : State) : (s.intrRaise).ioOut = s.ioOut := rfl
@[simp] theorem intrRaise_hookCalls (s : State) : (s.intrRaise).hookCalls = s.hookCalls := rfl
@[simp] theorem intrRaise_targetScript (s : State) : (s.intrRaise).targetScript = s.targetScript := rfl
@[simp] theorem intrRaise_inputs (s : State) : (s.intrRaise).inputs = s.inputs := rfl
@[simp] theorem intrRaise_pair_master (s : State) : (s.intrRaise).pair.master = s.pair.master := rfl
@[simp] theorem intrRaise_pair_slave (s : State) : (s.intrRaise).pair.slave = s.pair.slave := rfl
@[simp] theorem intrRaise_pair_intOut (s : State) : (s.intrRaise).pair.intOut = true := rfl

/-! `intrLower` -/

@[simp] theorem intrLower_params (s : State) : (s.intrLower).params = s.params := rfl
@[simp] theorem intrLower_io (s : State) : (s.intrLower).io = s.io := rfl
@[simp] theorem intrLower_picOut (s : State) : (s.intrLower).picOut = .intrLower :: s.picOut := rfl
@[simp] theorem intrLower_ioOut (s : State) : (s.intrLower).ioOut = s.ioOut := rfl
@[simp] theorem intrLower_hookCalls (s : State) : (s.intrLower).hookCalls = s.hookCalls := rfl
@[simp] theorem intrLower_targetScript (s : State) : (s.intrLower).targetScript = s.targetScript := rfl
@[simp] theorem intrLower_inputs (s : State) : (s.intrLower).inputs = s.inputs := rfl
@[simp] theorem intrLower_pair_master (s : State) : (s.intrLower).pair.master = s.pair.master := rfl
@[simp] theorem intrLower_pair_slave (s : State) : (s.intrLower).pair.slave = s.pair.slave := rfl
@[simp] theorem intrLower_pair_intOut (s : State) : (s.intrLower).pair.intOut = false := rfl

/-! `returnByte` -/

@[simp] theorem returnByte_params (s : State) (v : Byte) : (s.returnByte v).params = s.params := rfl
@[simp] theorem returnByte_io (s : State) (v : Byte) : (s.returnByte v).io = s.io := rfl
@[simp] theorem returnByte_picOut (s : State) (v : Byte) : (s.returnByte v).picOut = .portByte v :: s.picOut := rfl
@[simp] theorem returnByte_ioOut (s : State) (v : Byte) : (s.returnByte v).ioOut = s.ioOut := rfl
@[simp] theorem returnByte_hookCalls (s : State) (v : Byte) : (s.returnByte v).hookCalls = s.hookCalls := rfl
@[simp] theorem returnByte_targetScript (s : State) (v : Byte) : (s.returnByte v).targetScript = s.targetScript := rfl
@[simp] theorem returnByte_inputs (s : State) (v : Byte) : (s.returnByte v).inputs = s.inputs := rfl
@[simp] theorem returnByte_pair (s : State) (v : Byte) : (s.returnByte v).pair = s.pair := rfl

/-! `returnWord` -/

@[simp] theorem returnWord_params (s : State) (v : Word) : (s.returnWord v).params = s.params := rfl
@[simp] theorem returnWord_io (s : State) (v : Word) : (s.returnWord v).io = s.io := rfl
@[simp] theorem returnWord_picOut (s : State) (v : Word) : (s.returnWord v).picOut = s.picOut := rfl
@[simp] theorem returnWord_ioOut (s : State) (v : Word) : (s.returnWord v).ioOut = .mmioWord v :: s.ioOut := rfl
@[simp] theorem returnWord_hookCalls (s : State) (v : Word) : (s.returnWord v).hookCalls = s.hookCalls := rfl
@[simp] theorem returnWord_targetScript (s : State) (v : Word) : (s.returnWord v).targetScript = s.targetScript := rfl
@[simp] theorem returnWord_inputs (s : State) (v : Word) : (s.returnWord v).inputs = s.inputs := rfl
@[simp] theorem returnWord_pair (s : State) (v : Word) : (s.returnWord v).pair = s.pair := rfl

/-! `setRte` -/

@[simp] theorem setRte_params (s : State) (p : Nat) (e : Entry) : (s.setRte p e).params = s.params := rfl
@[simp] theorem setRte_picOut (s : State) (p : Nat) (e : Entry) : (s.setRte p e).picOut = s.picOut := rfl
@[simp] theorem setRte_ioOut (s : State) (p : Nat) (e : Entry) : (s.setRte p e).ioOut = s.ioOut := rfl
@[simp] theorem setRte_hookCalls (s : State) (p : Nat) (e : Entry) : (s.setRte p e).hookCalls = s.hookCalls := rfl
@[simp] theorem setRte_targetScript (s : State) (p : Nat) (e : Entry) :
    (s.setRte p e).targetScript = s.targetScript := rfl
@[simp] theorem setRte_inputs (s : State) (p : Nat) (e : Entry) : (s.setRte p e).inputs = s.inputs := rfl
@[simp] theorem setRte_pair (s : State) (p : Nat) (e : Entry) : (s.setRte p e).pair = s.pair := rfl
@[simp] theorem setRte_io_selectedIndex (s : State) (p : Nat) (e : Entry) :
    (s.setRte p e).io.selectedIndex = s.io.selectedIndex := rfl
@[simp] theorem setRte_io_apicId (s : State) (p : Nat) (e : Entry) : (s.setRte p e).io.apicId = s.io.apicId := rfl
@[simp] theorem setRte_io_rte (s : State) (p : Nat) (e : Entry) : (s.setRte p e).io.rte = s.io.rte.set p e := rfl
@[simp] theorem setRte_io_pendingLevelBitmap (s : State) (p : Nat) (e : Entry) :
    (s.setRte p e).io.pendingLevelBitmap = s.io.pendingLevelBitmap := rfl
@[simp] theorem setRte_io_flipFlopBitmap (s : State) (p : Nat) (e : Entry) :
    (s.setRte p e).io.flipFlopBitmap = s.io.flipFlopBitmap := rfl
@[simp] theorem setRte_io_traceTag (s : State) (p : Nat) (e : Entry) :
    (s.setRte p e).io.traceTag = s.io.traceTag := rfl
@[simp] theorem setRte_io_suppressedCount (s : State) (p : Nat) (e : Entry) :
    (s.setRte p e).io.suppressedCount = s.io.suppressedCount := rfl
@[simp] theorem setRte_io_redundantCount (s : State) (p : Nat) (e : Entry) :
    (s.setRte p e).io.redundantCount = s.io.redundantCount := rfl

/-! `setIoTag` -/

@[simp] theorem setIoTag_params (s : State) (p : Nat) (t : Tag) : (s.setIoTag p t).params = s.params := rfl
@[simp] theorem setIoTag_picOut (s : State) (p : Nat) (t : Tag) : (s.setIoTag p t).picOut = s.picOut := rfl
@[simp] theorem setIoTag_ioOut (s : State) (p : Nat) (t : Tag) : (s.setIoTag p t).ioOut = s.ioOut := rfl
@[simp] theorem setIoTag_hookCalls (s : State) (p : Nat) (t : Tag) : (s.setIoTag p t).hookCalls = s.hookCalls := rfl
@[simp] theorem setIoTag_targetScript (s : State) (p : Nat) (t : Tag) :
    (s.setIoTag p t).targetScript = s.targetScript := rfl
@[simp] theorem setIoTag_inputs (s : State) (p : Nat) (t : Tag) : (s.setIoTag p t).inputs = s.inputs := rfl
@[simp] theorem setIoTag_pair (s : State) (p : Nat) (t : Tag) : (s.setIoTag p t).pair = s.pair := rfl
@[simp] theorem setIoTag_io_selectedIndex (s : State) (p : Nat) (t : Tag) :
    (s.setIoTag p t).io.selectedIndex = s.io.selectedIndex := rfl
@[simp] theorem setIoTag_io_apicId (s : State) (p : Nat) (t : Tag) : (s.setIoTag p t).io.apicId = s.io.apicId := rfl
@[simp] theorem setIoTag_io_rte (s : State) (p : Nat) (t : Tag) : (s.setIoTag p t).io.rte = s.io.rte := rfl
@[simp] theorem setIoTag_io_pendingLevelBitmap (s : State) (p : Nat) (t : Tag) :
    (s.setIoTag p t).io.pendingLevelBitmap = s.io.pendingLevelBitmap := rfl
@[simp] theorem setIoTag_io_flipFlopBitmap (s : State) (p : Nat) (t : Tag) :
    (s.setIoTag p t).io.flipFlopBitmap = s.io.flipFlopBitmap := rfl
@[simp] theorem setIoTag_io_traceTag (s : State) (p : Nat) (t : Tag) :
    (s.setIoTag p t).io.traceTag = s.io.traceTag.set p t := rfl
@[simp] theorem setIoTag_io_suppressedCount (s : State) (p : Nat) (t : Tag) :
    (s.setIoTag p t).io.suppressedCount = s.io.suppressedCount := rfl
@[simp] theorem setIoTag_io_redundantCount (s : State) (p : Nat) (t : Tag) :
    (s.setIoTag p t).io.redundantCount = s.io.redundantCount := rfl

/-! `setPending` -/

@[simp] theorem setPending_params (s : State) (p : Nat) : (s.setPending p).params = s.params := rfl
@[simp] theorem setPending_picOut (s : State) (p : Nat) : (s.setPending p).picOut = s.picOut := rfl
@[simp] theorem setPending_ioOut (s : State) (p : Nat) : (s.setPending p).ioOut = s.ioOut := rfl
@[simp] theorem setPending_hookCalls (s : State) (p : Nat) : (s.setPending p).hookCalls = s.hookCalls := rfl
@[simp] theorem setPending_targetScript (s : State) (p : Nat) : (s.setPending p).targetScript = s.targetScript := rfl
@[simp] theorem setPending_inputs (s : State) (p : Nat) : (s.setPending p).inputs = s.inputs := rfl
@[simp] theorem setPending_pair (s : State) (p : Nat) : (s.setPending p).pair = s.pair := rfl
@[simp] theorem setPending_io_selectedIndex (s : State) (p : Nat) :
    (s.setPending p).io.selectedIndex = s.io.selectedIndex := rfl
@[simp] theorem setPending_io_apicId (s : State) (p : Nat) : (s.setPending p).io.apicId = s.io.apicId := rfl
@[simp] theorem setPending_io_rte (s : State) (p : Nat) : (s.setPending p).io.rte = s.io.rte := rfl
@[simp] theorem setPending_io_pendingLevelBitmap (s : State) (p : Nat) :
    (s.setPending p).io.pendingLevelBitmap = setPinBit s.io.pendingLevelBitmap p := rfl
@[simp] theorem setPending_io_flipFlopBitmap (s : State) (p : Nat) :
    (s.setPending p).io.flipFlopBitmap = s.io.flipFlopBitmap := rfl
@[simp] theorem setPending_io_traceTag (s : State) (p : Nat) : (s.setPending p).io.traceTag = s.io.traceTag := rfl
@[simp] theorem setPending_io_suppressedCount (s : State) (p : Nat) :
    (s.setPending p).io.suppressedCount = s.io.suppressedCount := rfl
@[simp] theorem setPending_io_redundantCount (s : State) (p : Nat) :
    (s.setPending p).io.redundantCount = s.io.redundantCount := rfl

/-! `clearPending` -/

@[simp] theorem clearPending_params (s : State) (p : Nat) : (s.clearPending p).params = s.params := rfl
@[simp] theorem clearPending_picOut (s : State) (p : Nat) : (s.clearPending p).picOut = s.picOut := rfl
@[simp] theorem clearPending_ioOut (s : State) (p : Nat) : (s.clearPending p).ioOut = s.ioOut := rfl
@[simp] theorem clearPending_hookCalls (s : State) (p : Nat) : (s.clearPending p).hookCalls = s.hookCalls := rfl
@[simp] theorem clearPending_targetScript (s : State) (p : Nat) :
    (s.clearPending p).targetScript = s.targetScript := rfl
@[simp] theorem clearPending_inputs (s : State) (p : Nat) : (s.clearPending p).inputs = s.inputs := rfl
@[simp] theorem clearPending_pair (s : State) (p : Nat) : (s.clearPending p).pair = s.pair := rfl
@[simp] theorem clearPending_io_selectedIndex (s : State) (p : Nat) :
    (s.clearPending p).io.selectedIndex = s.io.selectedIndex := rfl
@[simp] theorem clearPending_io_apicId (s : State) (p : Nat) : (s.clearPending p).io.apicId = s.io.apicId := rfl
@[simp] theorem clearPending_io_rte (s : State) (p : Nat) : (s.clearPending p).io.rte = s.io.rte := rfl
@[simp] theorem clearPending_io_pendingLevelBitmap (s : State) (p : Nat) :
    (s.clearPending p).io.pendingLevelBitmap = clearPinBit s.io.pendingLevelBitmap p := rfl
@[simp] theorem clearPending_io_flipFlopBitmap (s : State) (p : Nat) :
    (s.clearPending p).io.flipFlopBitmap = s.io.flipFlopBitmap := rfl
@[simp] theorem clearPending_io_traceTag (s : State) (p : Nat) : (s.clearPending p).io.traceTag = s.io.traceTag := rfl
@[simp] theorem clearPending_io_suppressedCount (s : State) (p : Nat) :
    (s.clearPending p).io.suppressedCount = s.io.suppressedCount := rfl
@[simp] theorem clearPending_io_redundantCount (s : State) (p : Nat) :
    (s.clearPending p).io.redundantCount = s.io.redundantCount := rfl

/-! `setFlipFlop` -/

@[simp] theorem setFlipFlop_params (s : State) (p : Nat) : (s.setFlipFlop p).params = s.params := rfl
@[simp] theorem setFlipFlop_picOut (s : State) (p : Nat) : (s.setFlipFlop p).picOut = s.picOut := rfl
@[simp] theorem setFlipFlop_ioOut (s : State) (p : Nat) : (s.setFlipFlop p).ioOut = s.ioOut := rfl
@[simp] theorem setFlipFlop_hookCalls (s : State) (p : Nat) : (s.setFlipFlop p).hookCalls = s.hookCalls := rfl
@[simp] theorem setFlipFlop_targetScript (s : State) (p : Nat) :
    (s.setFlipFlop p).targetScript = s.targetScript := rfl
@[simp] theorem setFlipFlop_inputs (s : State) (p : Nat) : (s.setFlipFlop p).inputs = s.inputs := rfl
@[simp] theorem setFlipFlop_pair (s : State) (p : Nat) : (s.setFlipFlop p).pair = s.pair := rfl
@[simp] theorem setFlipFlop_io_selectedIndex (s : State) (p : Nat) :
    (s.setFlipFlop p).io.selectedIndex = s.io.selectedIndex := rfl
@[simp] theorem setFlipFlop_io_apicId (s : State) (p : Nat) : (s.setFlipFlop p).io.apicId = s.io.apicId := rfl
@[simp] theorem setFlipFlop_io_rte (s : State) (p : Nat) : (s.setFlipFlop p).io.rte = s.io.rte := rfl
@[simp] theorem setFlipFlop_io_pendingLevelBitmap (s : State) (p : Nat) :
    (s.setFlipFlop p).io.pendingLevelBitmap = s.io.pendingLevelBitmap := rfl
@[simp] theorem setFlipFlop_io_flipFlopBitmap (s : State) (p : Nat) :
    (s.setFlipFlop p).io.flipFlopBitmap = setPinBit s.io.flipFlopBitmap p := rfl
@[simp] theorem setFlipFlop_io_traceTag (s : State) (p : Nat) : (s.setFlipFlop p).io.traceTag = s.io.traceTag := rfl
@[simp] theorem setFlipFlop_io_suppressedCount (s : State) (p : Nat) :
    (s.setFlipFlop p).io.suppressedCount = s.io.suppressedCount := rfl
@[simp] theorem setFlipFlop_io_redundantCount (s : State) (p : Nat) :
    (s.setFlipFlop p).io.redundantCount = s.io.redundantCount := rfl

/-! `clearFlipFlop` -/

@[simp] theorem clearFlipFlop_params (s : State) (p : Nat) : (s.clearFlipFlop p).params = s.params := rfl
@[simp] theorem clearFlipFlop_picOut (s : State) (p : Nat) : (s.clearFlipFlop p).picOut = s.picOut := rfl
@[simp] theorem clearFlipFlop_ioOut (s : State) (p : Nat) : (s.clearFlipFlop p).ioOut = s.ioOut := rfl
@[simp] theorem clearFlipFlop_hookCalls (s : State) (p : Nat) : (s.clearFlipFlop p).hookCalls = s.hookCalls := rfl
@[simp] theorem clearFlipFlop_targetScript (s : State) (p : Nat) :
    (s.clearFlipFlop p).targetScript = s.targetScript := rfl
@[simp] theorem clearFlipFlop_inputs (s : State) (p : Nat) : (s.clearFlipFlop p).inputs = s.inputs := rfl
@[simp] theorem clearFlipFlop_pair (s : State) (p : Nat) : (s.clearFlipFlop p).pair = s.pair := rfl
@[simp] theorem clearFlipFlop_io_selectedIndex (s : State) (p : Nat) :
    (s.clearFlipFlop p).io.selectedIndex = s.io.selectedIndex := rfl
@[simp] theorem clearFlipFlop_io_apicId (s : State) (p : Nat) : (s.clearFlipFlop p).io.apicId = s.io.apicId := rfl
@[simp] theorem clearFlipFlop_io_rte (s : State) (p : Nat) : (s.clearFlipFlop p).io.rte = s.io.rte := rfl
@[simp] theorem clearFlipFlop_io_pendingLevelBitmap (s : State) (p : Nat) :
    (s.clearFlipFlop p).io.pendingLevelBitmap = s.io.pendingLevelBitmap := rfl
@[simp] theorem clearFlipFlop_io_flipFlopBitmap (s : State) (p : Nat) :
    (s.clearFlipFlop p).io.flipFlopBitmap = clearPinBit s.io.flipFlopBitmap p := rfl
@[simp] theorem clearFlipFlop_io_traceTag (s : State) (p : Nat) :
    (s.clearFlipFlop p).io.traceTag = s.io.traceTag := rfl
@[simp] theorem clearFlipFlop_io_suppressedCount (s : State) (p : Nat) :
    (s.clearFlipFlop p).io.suppressedCount = s.io.suppressedCount := rfl
@[simp] theorem clearFlipFlop_io_redundantCount (s : State) (p : Nat) :
    (s.clearFlipFlop p).io.redundantCount = s.io.redundantCount := rfl

/-! `countSuppressed` -/

@[simp] theorem countSuppressed_params (s : State) : (s.countSuppressed).params = s.params := rfl
@[simp] theorem countSuppressed_picOut (s : State) : (s.countSuppressed).picOut = s.picOut := rfl
@[simp] theorem countSuppressed_ioOut (s : State) : (s.countSuppressed).ioOut = s.ioOut := rfl
@[simp] theorem countSuppressed_hookCalls (s : State) : (s.countSuppressed).hookCalls = s.hookCalls := rfl
@[simp] theorem countSuppressed_targetScript (s : State) : (s.countSuppressed).targetScript = s.targetScript := rfl
@[simp] theorem countSuppressed_inputs (s : State) : (s.countSuppressed).inputs = s.inputs := rfl
@[simp] theorem countSuppressed_pair (s : State) : (s.countSuppressed).pair = s.pair := rfl
@[simp] theorem countSuppressed_io_selectedIndex (s : State) :
    (s.countSuppressed).io.selectedIndex = s.io.selectedIndex := rfl
@[simp] theorem countSuppressed_io_apicId (s : State) : (s.countSuppressed).io.apicId = s.io.apicId := rfl
@[simp] theorem countSuppressed_io_rte (s : State) : (s.countSuppressed).io.rte = s.io.rte := rfl
@[simp] theorem countSuppressed_io_pendingLevelBitmap (s : State) :
    (s.countSuppressed).io.pendingLevelBitmap = s.io.pendingLevelBitmap := rfl
@[simp] theorem countSuppressed_io_flipFlopBitmap (s : State) :
    (s.countSuppressed).io.flipFlopBitmap = s.io.flipFlopBitmap := rfl
@[simp] theorem countSuppressed_io_traceTag (s : State) : (s.countSuppressed).io.traceTag = s.io.traceTag := rfl
@[simp] theorem countSuppressed_io_suppressedCount (s : State) :
    (s.countSuppressed).io.suppressedCount = s.io.suppressedCount + 1 := rfl
@[simp] theorem countSuppressed_io_redundantCount (s : State) :
    (s.countSuppressed).io.redundantCount = s.io.redundantCount := rfl

/-! `countRedundant` -/

@[simp] theorem countRedundant_params (s : State) : (s.countRedundant).params = s.params := rfl
@[simp] theorem countRedundant_picOut (s : State) : (s.countRedundant).picOut = s.picOut := rfl
@[simp] theorem countRedundant_ioOut (s : State) : (s.countRedundant).ioOut = s.ioOut := rfl
@[simp] theorem countRedundant_hookCalls (s : State) : (s.countRedundant).hookCalls = s.hookCalls := rfl
@[simp] theorem countRedundant_targetScript (s : State) : (s.countRedundant).targetScript = s.targetScript := rfl
@[simp] theorem countRedundant_inputs (s : State) : (s.countRedundant).inputs = s.inputs := rfl
@[simp] theorem countRedundant_pair (s : State) : (s.countRedundant).pair = s.pair := rfl
@[simp] theorem countRedundant_io_selectedIndex (s : State) :
    (s.countRedundant).io.selectedIndex = s.io.selectedIndex := rfl
@[simp] theorem countRedundant_io_apicId (s : State) : (s.countRedundant).io.apicId = s.io.apicId := rfl
@[simp] theorem countRedundant_io_rte (s : State) : (s.countRedundant).io.rte = s.io.rte := rfl
@[simp] theorem countRedundant_io_pendingLevelBitmap (s : State) :
    (s.countRedundant).io.pendingLevelBitmap = s.io.pendingLevelBitmap := rfl
@[simp] theorem countRedundant_io_flipFlopBitmap (s : State) :
    (s.countRedundant).io.flipFlopBitmap = s.io.flipFlopBitmap := rfl
@[simp] theorem countRedundant_io_traceTag (s : State) : (s.countRedundant).io.traceTag = s.io.traceTag := rfl
@[simp] theorem countRedundant_io_suppressedCount (s : State) :
    (s.countRedundant).io.suppressedCount = s.io.suppressedCount := rfl
@[simp] theorem countRedundant_io_redundantCount (s : State) :
    (s.countRedundant).io.redundantCount = s.io.redundantCount + 1 := rfl

/-! `script` -/

@[simp] theorem script_params (s : State) (a : Answer) : (s.script a).params = s.params := rfl
@[simp] theorem script_io (s : State) (a : Answer) : (s.script a).io = s.io := rfl
@[simp] theorem script_picOut (s : State) (a : Answer) : (s.script a).picOut = s.picOut := rfl
@[simp] theorem script_ioOut (s : State) (a : Answer) : (s.script a).ioOut = s.ioOut := rfl
@[simp] theorem script_hookCalls (s : State) (a : Answer) : (s.script a).hookCalls = s.hookCalls := rfl
@[simp] theorem script_targetScript (s : State) (a : Answer) :
    (s.script a).targetScript = s.targetScript ++ [a] := rfl
@[simp] theorem script_inputs (s : State) (a : Answer) : (s.script a).inputs = s.inputs := rfl
@[simp] theorem script_pair (s : State) (a : Answer) : (s.script a).pair = s.pair := rfl

/-! `withNext` -/

@[simp] theorem withNext_params (s : State) (t : Transaction) : (s.withNext t).params = s.params := rfl
@[simp] theorem withNext_io (s : State) (t : Transaction) : (s.withNext t).io = s.io := rfl
@[simp] theorem withNext_picOut (s : State) (t : Transaction) : (s.withNext t).picOut = s.picOut := rfl
@[simp] theorem withNext_ioOut (s : State) (t : Transaction) : (s.withNext t).ioOut = s.ioOut := rfl
@[simp] theorem withNext_hookCalls (s : State) (t : Transaction) : (s.withNext t).hookCalls = s.hookCalls := rfl
@[simp] theorem withNext_targetScript (s : State) (t : Transaction) :
    (s.withNext t).targetScript = s.targetScript := rfl
@[simp] theorem withNext_inputs (s : State) (t : Transaction) :
    (s.withNext t).inputs = .operation t :: s.inputs := rfl
@[simp] theorem withNext_pair (s : State) (t : Transaction) : (s.withNext t).pair = s.pair := rfl

/-! `dropPin2` -/

@[simp] theorem dropPin2_params (s : State) : (s.dropPin2).params = s.params := rfl
@[simp] theorem dropPin2_io (s : State) : (s.dropPin2).io = s.io := rfl
@[simp] theorem dropPin2_picOut (s : State) : (s.dropPin2).picOut = s.picOut := rfl
@[simp] theorem dropPin2_ioOut (s : State) : (s.dropPin2).ioOut = s.ioOut := rfl
@[simp] theorem dropPin2_hookCalls (s : State) : (s.dropPin2).hookCalls = s.hookCalls := rfl
@[simp] theorem dropPin2_targetScript (s : State) : (s.dropPin2).targetScript = s.targetScript := rfl
@[simp] theorem dropPin2_inputs (s : State) : (s.dropPin2).inputs = s.inputs := rfl
@[simp] theorem dropPin2_pair_master (s : State) :
    (s.dropPin2).pair.master = { s.pair.master with requestReg := clearBit s.pair.master.requestReg 2 } := rfl
@[simp] theorem dropPin2_pair_slave (s : State) : (s.dropPin2).pair.slave = s.pair.slave := rfl
@[simp] theorem dropPin2_pair_intOut (s : State) : (s.dropPin2).pair.intOut = s.pair.intOut := rfl

/-! `cascade` -/

@[simp] theorem cascade_params (s : State) (w : Option Pin) : (s.cascade w).params = s.params := rfl
@[simp] theorem cascade_io (s : State) (w : Option Pin) : (s.cascade w).io = s.io := rfl
@[simp] theorem cascade_picOut (s : State) (w : Option Pin) : (s.cascade w).picOut = s.picOut := rfl
@[simp] theorem cascade_ioOut (s : State) (w : Option Pin) : (s.cascade w).ioOut = s.ioOut := rfl
@[simp] theorem cascade_hookCalls (s : State) (w : Option Pin) : (s.cascade w).hookCalls = s.hookCalls := rfl
@[simp] theorem cascade_targetScript (s : State) (w : Option Pin) : (s.cascade w).targetScript = s.targetScript := rfl
@[simp] theorem cascade_inputs (s : State) (w : Option Pin) : (s.cascade w).inputs = s.inputs := rfl
@[simp] theorem cascade_pair_master (s : State) (w : Option Pin) :
    (s.cascade w).pair.master = drivePin2 s.pair.master s.pair.slave w := rfl
@[simp] theorem cascade_pair_slave (s : State) (w : Option Pin) : (s.cascade w).pair.slave = s.pair.slave := rfl
@[simp] theorem cascade_pair_intOut (s : State) (w : Option Pin) : (s.cascade w).pair.intOut = s.pair.intOut := rfl

/-! The accessors of the I/O APIC over the updates. -/

theorem setRte_rte (s : State) (p q : Nat) (e : Entry) :
    (s.setRte p e).rte q = if p = q ∧ q < s.io.rte.length then e else s.rte q := by
  simp only [State.rte, setRte_io_rte, List.getD_eq_getElem?_getD, List.getElem?_set]
  split <;> rename_i h
  · subst h; split <;> simp_all
  · simp [h]

@[simp] theorem setRte_rte_same (s : State) (p : Nat) (e : Entry) (h : p < s.io.rte.length) :
    (s.setRte p e).rte p = e := by
  simp [setRte_rte, h]

@[simp] theorem setRte_rte_other (s : State) (p q : Nat) (e : Entry) (h : p ≠ q) :
    (s.setRte p e).rte q = s.rte q := by
  simp [setRte_rte, h]

theorem setIoTag_ioTag (s : State) (p q : Nat) (t : Tag) :
    (s.setIoTag p t).ioTag q = if p = q ∧ q < s.io.traceTag.length then t else s.ioTag q := by
  simp only [State.ioTag, setIoTag_io_traceTag, List.getD_eq_getElem?_getD, List.getElem?_set]
  split <;> rename_i h
  · subst h; split <;> simp_all
  · simp [h]

@[simp] theorem setIoTag_rte (s : State) (p : Nat) (t : Tag) (q : Nat) : (s.setIoTag p t).rte q = s.rte q := rfl
@[simp] theorem setPending_rte (s : State) (p : Nat) (q : Nat) : (s.setPending p).rte q = s.rte q := rfl
@[simp] theorem clearPending_rte (s : State) (p : Nat) (q : Nat) : (s.clearPending p).rte q = s.rte q := rfl
@[simp] theorem setFlipFlop_rte (s : State) (p : Nat) (q : Nat) : (s.setFlipFlop p).rte q = s.rte q := rfl
@[simp] theorem clearFlipFlop_rte (s : State) (p : Nat) (q : Nat) : (s.clearFlipFlop p).rte q = s.rte q := rfl
@[simp] theorem countSuppressed_rte (s : State) (q : Nat) : (s.countSuppressed).rte q = s.rte q := rfl
@[simp] theorem countRedundant_rte (s : State) (q : Nat) : (s.countRedundant).rte q = s.rte q := rfl
@[simp] theorem emitIo_rte (s : State) (e : IoEvent) (q : Nat) : (s.emitIo e).rte q = s.rte q := rfl
@[simp] theorem emitPic_rte (s : State) (e : PicEvent) (q : Nat) : (s.emitPic e).rte q = s.rte q := rfl
@[simp] theorem returnWord_rte (s : State) (v : Word) (q : Nat) : (s.returnWord v).rte q = s.rte q := rfl
@[simp] theorem setRte_ioTag (s : State) (p : Nat) (e : Entry) (q : Nat) : (s.setRte p e).ioTag q = s.ioTag q := rfl
@[simp] theorem setPending_ioTag (s : State) (p : Nat) (q : Nat) : (s.setPending p).ioTag q = s.ioTag q := rfl
@[simp] theorem clearPending_ioTag (s : State) (p : Nat) (q : Nat) : (s.clearPending p).ioTag q = s.ioTag q := rfl
@[simp] theorem setFlipFlop_ioTag (s : State) (p : Nat) (q : Nat) : (s.setFlipFlop p).ioTag q = s.ioTag q := rfl
@[simp] theorem clearFlipFlop_ioTag (s : State) (p : Nat) (q : Nat) : (s.clearFlipFlop p).ioTag q = s.ioTag q := rfl
@[simp] theorem countSuppressed_ioTag (s : State) (q : Nat) : (s.countSuppressed).ioTag q = s.ioTag q := rfl
@[simp] theorem countRedundant_ioTag (s : State) (q : Nat) : (s.countRedundant).ioTag q = s.ioTag q := rfl
@[simp] theorem emitIo_ioTag (s : State) (e : IoEvent) (q : Nat) : (s.emitIo e).ioTag q = s.ioTag q := rfl
@[simp] theorem emitPic_ioTag (s : State) (e : PicEvent) (q : Nat) : (s.emitPic e).ioTag q = s.ioTag q := rfl
@[simp] theorem returnWord_ioTag (s : State) (v : Word) (q : Nat) : (s.returnWord v).ioTag q = s.ioTag q := rfl
@[simp] theorem setRte_pending (s : State) (p : Nat) (e : Entry) (q : Nat) :
    (s.setRte p e).pending q = s.pending q := rfl
@[simp] theorem setIoTag_pending (s : State) (p : Nat) (t : Tag) (q : Nat) :
    (s.setIoTag p t).pending q = s.pending q := rfl
@[simp] theorem setFlipFlop_pending (s : State) (p : Nat) (q : Nat) : (s.setFlipFlop p).pending q = s.pending q := rfl
@[simp] theorem clearFlipFlop_pending (s : State) (p : Nat) (q : Nat) :
    (s.clearFlipFlop p).pending q = s.pending q := rfl
@[simp] theorem countSuppressed_pending (s : State) (q : Nat) : (s.countSuppressed).pending q = s.pending q := rfl
@[simp] theorem countRedundant_pending (s : State) (q : Nat) : (s.countRedundant).pending q = s.pending q := rfl
@[simp] theorem emitIo_pending (s : State) (e : IoEvent) (q : Nat) : (s.emitIo e).pending q = s.pending q := rfl
@[simp] theorem emitPic_pending (s : State) (e : PicEvent) (q : Nat) : (s.emitPic e).pending q = s.pending q := rfl
@[simp] theorem returnWord_pending (s : State) (v : Word) (q : Nat) : (s.returnWord v).pending q = s.pending q := rfl
@[simp] theorem setRte_flipFlop (s : State) (p : Nat) (e : Entry) (q : Nat) :
    (s.setRte p e).flipFlop q = s.flipFlop q := rfl
@[simp] theorem setIoTag_flipFlop (s : State) (p : Nat) (t : Tag) (q : Nat) :
    (s.setIoTag p t).flipFlop q = s.flipFlop q := rfl
@[simp] theorem setPending_flipFlop (s : State) (p : Nat) (q : Nat) :
    (s.setPending p).flipFlop q = s.flipFlop q := rfl
@[simp] theorem clearPending_flipFlop (s : State) (p : Nat) (q : Nat) :
    (s.clearPending p).flipFlop q = s.flipFlop q := rfl
@[simp] theorem countSuppressed_flipFlop (s : State) (q : Nat) : (s.countSuppressed).flipFlop q = s.flipFlop q := rfl
@[simp] theorem countRedundant_flipFlop (s : State) (q : Nat) : (s.countRedundant).flipFlop q = s.flipFlop q := rfl
@[simp] theorem emitIo_flipFlop (s : State) (e : IoEvent) (q : Nat) : (s.emitIo e).flipFlop q = s.flipFlop q := rfl
@[simp] theorem emitPic_flipFlop (s : State) (e : PicEvent) (q : Nat) : (s.emitPic e).flipFlop q = s.flipFlop q := rfl
@[simp] theorem returnWord_flipFlop (s : State) (v : Word) (q : Nat) :
    (s.returnWord v).flipFlop q = s.flipFlop q := rfl
@[simp] theorem emitPic_record (s : State) (e : PicEvent) : (s.emitPic e).record = s.record := rfl
@[simp] theorem emitIo_record (s : State) (e : IoEvent) : (s.emitIo e).record = s.record := rfl
@[simp] theorem intrRaise_record (s : State) : (s.intrRaise).record = s.record := rfl
@[simp] theorem intrLower_record (s : State) : (s.intrLower).record = s.record := rfl
@[simp] theorem returnByte_record (s : State) (v : Byte) : (s.returnByte v).record = s.record := rfl
@[simp] theorem returnWord_record (s : State) (v : Word) : (s.returnWord v).record = s.record := rfl
@[simp] theorem setRte_record (s : State) (p : Nat) (e : Entry) : (s.setRte p e).record = s.record := rfl
@[simp] theorem setIoTag_record (s : State) (p : Nat) (t : Tag) : (s.setIoTag p t).record = s.record := rfl
@[simp] theorem setPending_record (s : State) (p : Nat) : (s.setPending p).record = s.record := rfl
@[simp] theorem clearPending_record (s : State) (p : Nat) : (s.clearPending p).record = s.record := rfl
@[simp] theorem setFlipFlop_record (s : State) (p : Nat) : (s.setFlipFlop p).record = s.record := rfl
@[simp] theorem clearFlipFlop_record (s : State) (p : Nat) : (s.clearFlipFlop p).record = s.record := rfl
@[simp] theorem countSuppressed_record (s : State) : (s.countSuppressed).record = s.record := rfl
@[simp] theorem countRedundant_record (s : State) : (s.countRedundant).record = s.record := rfl
@[simp] theorem script_record (s : State) (a : Answer) : (s.script a).record = s.record := rfl
@[simp] theorem withNext_record (s : State) (t : Transaction) : (s.withNext t).record = s.record := rfl
@[simp] theorem dropPin2_record (s : State) : (s.dropPin2).record = s.record := rfl
@[simp] theorem cascade_record (s : State) (w : Option Pin) : (s.cascade w).record = s.record := rfl
@[simp] theorem setChan_record (s : State) (c : ChannelId) (ch : PicChannel) :
    (s.setChan c ch).record = s.record := by
  cases c <;> rfl

theorem setPending_pending (s : State) (p q : Nat) (hq : q < maxPins) :
    (s.setPending p).pending q = (decide (p = q) || s.pending q) := by
  simp only [State.pending, setPending_io_pendingLevelBitmap, setPinBit, BitVec.getLsbD_or, BitVec.getLsbD_shiftLeft,
    BitVec.getLsbD_one]
  by_cases h : p = q
  · subst h; simp [hq, maxPins]
  · rcases Nat.lt_or_gt_of_ne h with h' | h'
    · have : ¬ (q - p = 0) := by omega
      simp [h, this]
    · simp [h, h']

theorem clearPending_pending (s : State) (p q : Nat) :
    (s.clearPending p).pending q = (!decide (p = q) && s.pending q) := by
  simp only [State.pending, clearPending_io_pendingLevelBitmap, clearPinBit, BitVec.getLsbD_and, BitVec.getLsbD_not,
    BitVec.getLsbD_shiftLeft, BitVec.getLsbD_one]
  by_cases hq : q < maxPins
  · by_cases h : p = q
    · subst h; simp [hq, maxPins]
    · rcases Nat.lt_or_gt_of_ne h with h' | h'
      · have : ¬ (q - p = 0) := by omega
        simp [h, hq, this]
      · simp [h, hq, h']
  · simp [BitVec.getLsbD_of_ge _ _ (Nat.le_of_not_lt hq)]

end Sys2Proof.Machine
end

