-- ==== Sys2Proof/Laws/IoApic.lean ====
section
/-! SUPPORT. What the shared operations of the I/O APIC do, once each: the halves of an entry, the two bits of `remoteIrr`,
the delivery path (`deliver_spec`), the delivery decision (`signalPending_cases`), the visit of one pin by a SetEoi
(`eoiPin_cases`) and what its visits leave alone (`eoiVisited_keeps`). -/

namespace Sys2Proof.Machine

/-! Entries. -/

theorem half_getLsbD (x : Entry) (high : Bool) (k : Nat) (hk : k < 32) :
    (half x high).getLsbD k = x.getLsbD (if high then 32 + k else k) := by
  cases high <;> simp [half, hk]

theorem setHalf_getLsbD (x : Entry) (high : Bool) (w : Word) (k : Nat) (hk : k < 64) :
    (setHalf x high w).getLsbD k =
      if high then (if k < 32 then x.getLsbD k else w.getLsbD (k - 32))
      else if k < 32 then w.getLsbD k else x.getLsbD k := by
  cases high
  · simp only [setHalf, Bool.false_eq_true, if_false]
    rw [BitVec.getLsbD_append]
    split
    · rfl
    · rename_i h
      simp only [BitVec.getLsbD_extractLsb']
      rw [decide_eq_true (by omega), Bool.true_and]; congr 1; omega
  · simp only [setHalf, if_true]
    rw [BitVec.getLsbD_append]
    split
    · rename_i h; simp [h]
    · rfl

/-- Rule R122, bit by bit: the merge of a value into one half. -/
theorem mergeHalf_getLsbD (wm e : Entry) (high : Bool) (value : Word) (k : Nat) (hk : k < 64) :
    (mergeHalf wm e high value).getLsbD k =
      if (high = decide (32 ≤ k)) ∧ wm.getLsbD k = true then value.getLsbD (k % 32) else e.getLsbD k := by
  rw [mergeHalf, setHalf_getLsbD _ _ _ _ hk]
  have key : ∀ j, j < 32 → ((half e high &&& ~~~half wm high) ||| (value &&& half wm high)).getLsbD j =
      if wm.getLsbD (if high then 32 + j else j) = true then value.getLsbD j
      else e.getLsbD (if high then 32 + j else j) := by
    intro j hj
    rw [BitVec.getLsbD_or, BitVec.getLsbD_and, BitVec.getLsbD_and, BitVec.getLsbD_not, half_getLsbD _ _ _ hj,
      half_getLsbD _ _ _ hj]
    cases wm.getLsbD (if high then 32 + j else j) <;> simp [hj]
  cases high
  · by_cases h : k < 32
    · have : ¬ 32 ≤ k := by omega
      simp only [Bool.false_eq_true, if_false, h, if_true, key k h, this, decide_false, true_and, Nat.mod_eq_of_lt h]
    · have : 32 ≤ k := by omega
      simp [h, this]
  · by_cases h : k < 32
    · have : ¬ 32 ≤ k := by omega
      simp [h, this]
    · have h32 : 32 ≤ k := by omega
      have hk' : k - 32 < 32 := by omega
      have e1 : 32 + (k - 32) = k := by omega
      have e2 : k % 32 = k - 32 := by omega
      simp only [if_true, h, if_false, key (k - 32) hk', e1, h32, decide_true, true_and, e2]

theorem setRemoteIrr_getLsbD (e : Entry) (k : Nat) : (setRemoteIrr e).getLsbD k = (e.getLsbD k || decide (k = 14)) := by
  simp only [setRemoteIrr, BitVec.getLsbD_or, BitVec.getLsbD_shiftLeft, BitVec.getLsbD_one]
  congr 1
  by_cases h : k = 14
  · subst h; decide
  · have : ¬(k < 64 ∧ 14 ≤ k ∧ k - 14 = 0) := by omega
    simp only [h, decide_false]
    grind

theorem clearRemoteIrr_getLsbD (e : Entry) (k : Nat) :
    (clearRemoteIrr e).getLsbD k = (e.getLsbD k && !decide (k = 14)) := by
  simp only [clearRemoteIrr, BitVec.getLsbD_and, BitVec.getLsbD_not, BitVec.getLsbD_shiftLeft, BitVec.getLsbD_one]
  by_cases hk : k < 64
  · congr 1
    by_cases h : k = 14
    · subst h; decide
    · simp only [h, decide_false]
      grind
  · simp [BitVec.getLsbD_of_ge e k (by omega)]

/-- Every field of an entry but `remoteIrr` is a field of the bits other than 14. -/
theorem fields_congr (a b : Entry) (h : ∀ k, k ≠ 14 → a.getLsbD k = b.getLsbD k) :
    rteMasked a = rteMasked b ∧ rteLevel a = rteLevel b ∧ rteVector a = rteVector b ∧
      rteDeliveryStatus a = rteDeliveryStatus b ∧ ∀ tag, descriptorOf a tag = descriptorOf b tag := by
  have hex : ∀ lo n, (∀ i, i < n → lo + i ≠ 14) → a.extractLsb' lo n = b.extractLsb' lo n := by
    intro lo n hn
    apply BitVec.eq_of_getLsbD_eq
    intro i hi
    simp only [BitVec.getLsbD_extractLsb', hi, decide_true, Bool.true_and]
    exact h _ (hn i hi)
  have hv : rteVector a = rteVector b := hex 0 8 (by omega)
  refine ⟨h 16 (by omega), h 15 (by omega), hv, h 12 (by omega), fun tag => ?_⟩
  simp only [descriptorOf, hv, rteDeliveryMode, rteDestinationMode, rtePolarity, rteLevel, rteDestination,
    rteExtendedDestination, hex 8 3 (by omega), hex 48 8 (by omega), hex 56 8 (by omega), h 11 (by omega),
    h 13 (by omega), h 15 (by omega)]

theorem fields_clearRemoteIrr (e : Entry) : rteMasked (clearRemoteIrr e) = rteMasked e ∧
    rteLevel (clearRemoteIrr e) = rteLevel e ∧ rteVector (clearRemoteIrr e) = rteVector e ∧
    rteDeliveryStatus (clearRemoteIrr e) = rteDeliveryStatus e ∧
    ∀ tag, descriptorOf (clearRemoteIrr e) tag = descriptorOf e tag :=
  fields_congr _ _ fun k hk => by simp [clearRemoteIrr_getLsbD, hk]

theorem fields_setRemoteIrr (e : Entry) : rteMasked (setRemoteIrr e) = rteMasked e ∧
    rteLevel (setRemoteIrr e) = rteLevel e ∧ rteVector (setRemoteIrr e) = rteVector e ∧
    rteDeliveryStatus (setRemoteIrr e) = rteDeliveryStatus e ∧
    ∀ tag, descriptorOf (setRemoteIrr e) tag = descriptorOf e tag :=
  fields_congr _ _ fun k hk => by simp [setRemoteIrr_getLsbD, hk]

@[simp] theorem rteRemoteIrr_clear (e : Entry) : rteRemoteIrr (clearRemoteIrr e) = false := by
  rw [rteRemoteIrr, clearRemoteIrr_getLsbD, decide_eq_true rfl, Bool.not_true, Bool.and_false]

@[simp] theorem rteRemoteIrr_set (e : Entry) : rteRemoteIrr (setRemoteIrr e) = true := by
  rw [rteRemoteIrr, setRemoteIrr_getLsbD, decide_eq_true rfl, Bool.or_true]

theorem setRemoteIrr_clearRemoteIrr (e : Entry) : setRemoteIrr (clearRemoteIrr e) = setRemoteIrr e := by
  apply BitVec.eq_of_getLsbD_eq
  intro k _
  simp only [setRemoteIrr_getLsbD, clearRemoteIrr_getLsbD]
  by_cases h : k = 14 <;> simp [h]

/-! The delivery path. -/

theorem ioFrame_refl (s : State) : s.ioFrame s := ⟨rfl, rfl, rfl, rfl⟩

theorem ioFrame_trans {s t u : State} (h : s.ioFrame t) (h' : t.ioFrame u) : s.ioFrame u :=
  ⟨h'.1.trans h.1, h'.2.1.trans h.2.1, h'.2.2.1.trans h.2.2.1, h'.2.2.2.trans h.2.2.2⟩

theorem ioFrame_of_io (s : State) (io : IoApic) : s.ioFrame { s with io := io } := ⟨rfl, rfl, rfl, rfl⟩

/-- Rules R129, R130: all that one call of the delivery path does. -/
theorem deliver_spec (s : State) (d : Descriptor) :
    (s.deliver d).1 = { s with
      ioOut := ((s.remapped d).map fun r => IoEvent.attempt r s.answer).toList ++ s.ioOut
      hookCalls := s.hookCalls + 1
      targetScript := if (s.remapped d).isSome then s.targetScript.tail else s.targetScript } ∧
    (s.deliver d).2 = ((s.remapped d).isSome && decide (s.answer = .accept)) := by
  simp only [State.deliver]
  cases s.remapped d <;> simp

/-- Rule R131: the delivery decision, case by case. -/
theorem signalPending_cases (s : State) (p : Nat) : s.signalPending p =
    if rteMasked (s.rte p) = true then s
    else if rteLevel (s.rte p) = true ∧ rteRemoteIrr (s.rte p) = true then s.countSuppressed
    else if (s.deliver (descriptorOf (s.rte p) (s.ioTag p))).2 = true then
      (s.deliver (descriptorOf (s.rte p) (s.ioTag p))).1.accepted p
    else (s.deliver (descriptorOf (s.rte p) (s.ioTag p))).1 := by
  simp only [State.signalPending, Bool.and_eq_true]
  split
  · rfl
  split
  · rfl
  split <;> rename_i h <;> rw [h] <;> simp

theorem deliver_io (s : State) (d : Descriptor) : (s.deliver d).1.io = s.io := by rw [(deliver_spec s d).1]

theorem deliver_rte (s : State) (d : Descriptor) (q : Nat) : (s.deliver d).1.rte q = s.rte q := by
  simp only [State.rte, deliver_io]

/-- Rule R131: an accepted attempt, as a change of the I/O APIC alone. -/
theorem accepted_eq (s : State) (p : Nat) : s.accepted p = { s with io := acceptedIo s.io p } := by
  have h : ∀ e, setRemoteIrr e = e ||| 0x4000#64 := fun e => by
    unfold setRemoteIrr; exact congrArg (e ||| ·) (by decide)
  unfold State.accepted acceptedIo State.rte State.flipFlop
  cases rteLevel (s.io.rte.getD p 0)
  · cases s.io.flipFlopBitmap.getLsbD p <;> rfl
  · simp only [if_true, State.setRte, h]

/-- Rule R131: the delivery decision leaves everything outside the I/O APIC alone. -/
theorem ioFrame_signalPending (s : State) (p : Nat) : s.ioFrame (s.signalPending p) := by
  rw [signalPending_cases]
  have hd := (deliver_spec s (descriptorOf (s.rte p) (s.ioTag p))).1
  split
  · exact ioFrame_refl s
  split
  · exact ⟨rfl, rfl, rfl, rfl⟩
  split
  · rw [accepted_eq, hd]; exact ⟨rfl, rfl, rfl, rfl⟩
  · rw [hd]; exact ⟨rfl, rfl, rfl, rfl⟩

/-- Rule R131: the fields that no delivery decision changes, and the entries of the other pins. -/
theorem signalPending_keeps (s : State) (p : Nat) :
    (s.signalPending p).io.selectedIndex = s.io.selectedIndex ∧ (s.signalPending p).io.apicId = s.io.apicId ∧
    (s.signalPending p).io.flipFlopBitmap = s.io.flipFlopBitmap ∧
    (s.signalPending p).io.redundantCount = s.io.redundantCount ∧
    (s.signalPending p).io.rte.length = s.io.rte.length ∧
    (s.signalPending p).io.traceTag.length = s.io.traceTag.length ∧
    (∀ q, q ≠ p → (s.signalPending p).rte q = s.rte q) := by
  rw [signalPending_cases]
  split
  · simp
  split
  · exact ⟨rfl, rfl, rfl, rfl, rfl, rfl, fun _ _ => rfl⟩
  split
  · rw [accepted_eq]
    simp only [acceptedIo, deliver_io]
    refine ⟨?_, ?_, ?_, ?_, ?_, ?_, fun q hq => ?_⟩
    all_goals (split <;> [skip; split]) <;> try simp
    · simp [State.rte, Ne.symm hq]
    · simp [State.rte]
    · simp [State.rte]
  · simp [deliver_io, deliver_rte]

/-- Rule R131: the entry of the pin itself. Only `remoteIrr` can change, and only from 0 to 1, by one accepted attempt on an
unmasked level entry. -/
theorem signalPending_rte_self (s : State) (p : Nat) :
    (s.signalPending p).rte p = s.rte p ∨
      ((s.signalPending p).rte p = setRemoteIrr (s.rte p) ∧ rteMasked (s.rte p) = false ∧ rteLevel (s.rte p) = true ∧
        rteRemoteIrr (s.rte p) = false ∧ p < s.io.rte.length ∧ (s.signalPending p).hookCalls = s.hookCalls + 1 ∧
        s.answer = .accept ∧ ∃ r, (s.signalPending p).ioOut = .attempt r .accept :: s.ioOut) := by
  rw [signalPending_cases]
  split
  · exact .inl rfl
  rename_i hm
  split
  · exact .inl rfl
  rename_i hsup
  split
  · rename_i hacc
    have hd := deliver_spec s (descriptorOf (s.rte p) (s.ioTag p))
    rw [accepted_eq]
    by_cases hp : p < s.io.rte.length
    · by_cases hl : rteLevel (s.rte p) = true
      · right
        rw [hd.2, Bool.and_eq_true] at hacc
        have hans : s.answer = .accept := of_decide_eq_true hacc.2
        obtain ⟨r, hr⟩ := Option.isSome_iff_exists.1 hacc.1
        have hl' : rteLevel (s.io.rte.getD p 0) = true := hl
        refine ⟨?_, by simpa using hm, hl, by simpa [hl] using hsup, hp, ?_, hans, r, ?_⟩
        · simp [State.rte, acceptedIo, deliver_io, hp, setRemoteIrr] at hl' ⊢
          simp [hl', hp]
        · simp [hd.1]
        · simp [hd.1, hr, hans]
      · left
        have hl' : rteLevel (s.io.rte.getD p 0) = false := by simpa [State.rte] using hl
        simp only [State.rte, acceptedIo, deliver_io, hl', Bool.false_eq_true, if_false]
        split <;> rfl
    · left
      have h0 : s.io.rte.getD p 0 = 0 := by simp [List.getElem?_eq_none (Nat.le_of_not_lt hp)]
      simp only [State.rte, acceptedIo, deliver_io, h0]
      have : rteLevel 0 = false := by decide
      simp only [this, Bool.false_eq_true, if_false]
      split <;> simpa using h0
  · exact .inl (deliver_rte ..)

/-! The EOI broadcast. -/

/-- Rule R134: the visit of one pin by a SetEoi, in its three cases: no match, a match that makes no attempt, and a match
that makes one. -/
theorem eoiPin_cases (v : Byte) (s : State) (p : Nat) (hp : p < s.io.rte.length) :
    ((rteLevel (s.rte p) && (rteVector (s.rte p) == v)) = false ∧ s.eoiPin v p = s) ∨
    ((rteLevel (s.rte p) && (rteVector (s.rte p) == v)) = true ∧ s.reattempted v p = false ∧
      s.eoiPin v p = { s with io := { s.io with rte := s.io.rte.set p (clearRemoteIrr (s.rte p)) } }) ∨
    (s.reattempted v p = true ∧ ∃ took,
      took = (s.deliver (descriptorOf (s.rte p) (s.ioTag p))).2 ∧
      s.eoiPin v p = { (s.deliver (descriptorOf (s.rte p) (s.ioTag p))).1 with io := { s.io with
        rte := s.io.rte.set p (if took then setRemoteIrr (s.rte p) else clearRemoteIrr (s.rte p)) } }) := by
  simp only [State.eoiPin, State.reattempted]
  by_cases hm : (rteLevel (s.rte p) && (rteVector (s.rte p) == v)) = true
  swap
  · left; simp [hm]
  right
  simp only [hm, if_true, Bool.true_and]
  by_cases hpend : s.pending p = true
  swap
  · left; simp [hpend, State.setRte]
  simp only [hpend, if_true, Bool.true_and]
  have hrte : (s.setRte p (clearRemoteIrr (s.rte p))).rte p = clearRemoteIrr (s.rte p) := by
    simp [State.rte, State.setRte, hp]
  obtain ⟨hf1, hf2, _, _, hf5⟩ := fields_clearRemoteIrr (s.rte p)
  by_cases hmask : rteMasked (s.rte p) = true
  · left
    refine ⟨trivial, by simp [hmask], ?_⟩
    rw [signalPending_cases, hrte, hf1, if_pos hmask]; rfl
  · right
    refine ⟨by simpa using hmask, _, rfl, ?_⟩
    have hl : rteLevel (s.rte p) = true := (Bool.and_eq_true _ _ ▸ hm : _ ∧ _).1
    have htag : (s.setRte p (clearRemoteIrr (s.rte p))).ioTag p = s.ioTag p := rfl
    rw [signalPending_cases, hrte, hf1, if_neg hmask, rteRemoteIrr_clear, if_neg (by simp), htag, hf5]
    have hd := deliver_spec s (descriptorOf (s.rte p) (s.ioTag p))
    have hd' := deliver_spec (s.setRte p (clearRemoteIrr (s.rte p))) (descriptorOf (s.rte p) (s.ioTag p))
    have h2 : ((s.setRte p (clearRemoteIrr (s.rte p))).deliver (descriptorOf (s.rte p) (s.ioTag p))).2 =
        (s.deliver (descriptorOf (s.rte p) (s.ioTag p))).2 := by rw [hd.2, hd'.2]; rfl
    have h1 : ((s.setRte p (clearRemoteIrr (s.rte p))).deliver (descriptorOf (s.rte p) (s.ioTag p))).1 =
        { (s.deliver (descriptorOf (s.rte p) (s.ioTag p))).1 with
          io := { s.io with rte := s.io.rte.set p (clearRemoteIrr (s.rte p)) } } := by rw [hd.1, hd'.1]; rfl
    rw [h2, h1]
    by_cases hacc : (s.deliver (descriptorOf (s.rte p) (s.ioTag p))).2 = true
    · rw [if_pos hacc, hacc, accepted_eq]
      have hg : (s.io.rte.set p (clearRemoteIrr (s.rte p))).getD p 0 = clearRemoteIrr (s.rte p) := by simp [hp]
      have h4 : clearRemoteIrr (s.rte p) ||| 0x4000#64 = setRemoteIrr (s.rte p) := by
        rw [← setRemoteIrr_clearRemoteIrr]; unfold setRemoteIrr; exact congrArg (clearRemoteIrr (s.rte p) ||| ·) (by decide : 0x4000#64 = 1#64 <<< 14)
      simp only [acceptedIo, hg, hf2, hl, if_true, h4, List.set_set]
    · simp only [Bool.not_eq_true] at hacc
      rw [hacc]; rfl

/-- Rule R134: the state before the visit of pin `n`, which is the state after the visits of the pins below it. -/
def State.eoiVisited (s : State) (v : Byte) (n : Nat) : State := (List.range n).foldl (State.eoiPin v) s

theorem eoiVisited_zero (s : State) (v : Byte) : s.eoiVisited v 0 = s := rfl

theorem eoiVisited_succ (s : State) (v : Byte) (n : Nat) : s.eoiVisited v (n + 1) = (s.eoiVisited v n).eoiPin v n := by
  simp [State.eoiVisited, List.range_succ]

theorem eoiVisited_all (s : State) (v : Byte) : s.eoiVisited v s.record.pinCount = s.setEoi v := rfl

/-- Rule R134: what the visit of one pin leaves alone. -/
theorem eoiPin_keeps (v : Byte) (s : State) (p : Nat) (hp : p < s.io.rte.length) :
    s.ioFrame (s.eoiPin v p) ∧ (s.eoiPin v p).io = { s.io with rte := (s.eoiPin v p).io.rte } ∧
    (s.eoiPin v p).io.rte.length = s.io.rte.length ∧ ∀ q, q ≠ p → (s.eoiPin v p).rte q = s.rte q := by
  rcases eoiPin_cases v s p hp with ⟨_, h⟩ | ⟨_, _, h⟩ | ⟨_, _, _, h⟩
  · rw [h]; exact ⟨ioFrame_refl s, rfl, rfl, fun _ _ => rfl⟩
  · rw [h]; exact ⟨ioFrame_of_io s _, rfl, by simp, fun q hq => by simp [State.rte, Ne.symm hq]⟩
  · rw [h, (deliver_spec _ _).1]
    exact ⟨⟨rfl, rfl, rfl, rfl⟩, rfl, by simp, fun q hq => by simp [State.rte, Ne.symm hq]⟩

/-- Rule R134: what the visits of the pins below `n` leave alone, the entries from `n` on among it. -/
theorem eoiVisited_keeps (s : State) (v : Byte) (n : Nat) (hn : n ≤ s.io.rte.length) :
    s.ioFrame (s.eoiVisited v n) ∧ (s.eoiVisited v n).io = { s.io with rte := (s.eoiVisited v n).io.rte } ∧
    (s.eoiVisited v n).io.rte.length = s.io.rte.length ∧ ∀ q, n ≤ q → (s.eoiVisited v n).rte q = s.rte q := by
  induction n with
  | zero => exact ⟨ioFrame_refl s, rfl, rfl, fun _ _ => rfl⟩
  | succ n ih =>
    obtain ⟨hf, hio, hlen, hrte⟩ := ih (by omega)
    obtain ⟨hf', hio', hlen', hrte'⟩ := eoiPin_keeps v (s.eoiVisited v n) n (by omega)
    rw [eoiVisited_succ]
    refine ⟨ioFrame_trans hf hf', ?_, hlen'.trans hlen, fun q hq => ?_⟩
    · rw [hio', hio]
    · rw [hrte' q (by omega), hrte q (by omega)]

/-- Rule R134: at the visit of a pin, whether it is to be attempted again is as it was before the first visit. -/
theorem eoiVisited_reattempted (s : State) (v : Byte) (n : Nat) (hn : n ≤ s.io.rte.length) :
    (s.eoiVisited v n).reattempted v n = s.reattempted v n := by
  obtain ⟨_, hio, _, hrte⟩ := eoiVisited_keeps s v n hn
  simp only [State.reattempted, hrte n (Nat.le_refl n), State.pending]
  rw [hio]

/-- Rule R134: once a pin has been visited, the later visits leave its entry alone. -/
theorem eoiVisited_rte_later (s : State) (v : Byte) (p n : Nat) (hp : p < n) (hn : n ≤ s.io.rte.length) :
    (s.eoiVisited v n).rte p = (s.eoiVisited v (p + 1)).rte p := by
  induction n with
  | zero => omega
  | succ n ih =>
    rcases Nat.lt_succ_iff_lt_or_eq.1 hp with h | rfl
    · have hlen := (eoiVisited_keeps s v n (by omega)).2.2.1
      rw [eoiVisited_succ, (eoiPin_keeps v _ n (by omega)).2.2.2 p (by omega), ih h (by omega)]
    · rfl

end Sys2Proof.Machine
end

