-- ==== Sys2Proof/Laws/Priority.lean ====
section
/-! SUPPORT. Single pins of a byte, and what `getPriority` and `getPendingIrq` answer (rules R81, R82). -/

namespace Sys2Proof.Machine

@[simp] theorem hasBit_setBit (r : Byte) (p q : Pin) : hasBit (setBit r p) q = (hasBit r q || decide (q = p)) := by
  revert p q; simp only [hasBit, setBit, bit, BitVec.getLsbD_or, BitVec.getLsbD_shiftLeft, BitVec.getLsbD_one]
  intro p q
  congr 1
  revert p q; decide

@[simp] theorem hasBit_clearBit (r : Byte) (p q : Pin) : hasBit (clearBit r p) q = (hasBit r q && !decide (q = p)) := by
  revert p q
  simp only [hasBit, clearBit, bit, BitVec.getLsbD_and, BitVec.getLsbD_not, BitVec.getLsbD_shiftLeft, BitVec.getLsbD_one]
  intro p q
  congr 1
  revert p q; decide

theorem hasBit_ext (a b : Byte) (h : ∀ p, hasBit a p = hasBit b p) : a = b := by
  apply BitVec.eq_of_getLsbD_eq
  intro i hi
  have := h (BitVec.ofNat 3 i)
  simpa [hasBit, Nat.mod_eq_of_lt hi] using this

theorem hasBit_and (a b : Byte) (p : Pin) : hasBit (a &&& b) p = (hasBit a p && hasBit b p) := by simp [hasBit]

theorem setBit_of_hasBit (r : Byte) (p : Pin) (h : hasBit r p = true) : setBit r p = r := by
  apply hasBit_ext; intro q; simp only [hasBit_setBit]
  by_cases hq : q = p <;> simp_all

theorem clearBit_of_not_hasBit (r : Byte) (p : Pin) (h : hasBit r p = false) : clearBit r p = r := by
  apply hasBit_ext; intro q; simp only [hasBit_clearBit]
  by_cases hq : q = p <;> simp_all

theorem exists_hasBit (m : Byte) (h : m ≠ 0) : ∃ p, hasBit m p = true := by
  by_contra hn
  exact h (hasBit_ext m 0 fun p => by
    have : hasBit m p = false := by simpa using fun hp => hn ⟨p, hp⟩
    rw [this]; simp [hasBit])

theorem priorityOffset_lt (base p : Pin) : priorityOffset base p < 8 := (p - base).isLt

theorem bit_at_offset (m : Byte) (base p : Pin) :
    m.getLsbD ((priorityOffset base p + base.toNat) % 8) = hasBit m p := by
  have : (priorityOffset base p + base.toNat) % 8 = p.toNat := by
    revert base p; decide
  rw [this]; rfl

theorem pinAt_priorityOffset (base p : Pin) : pinAt base (priorityOffset base p) = p := by revert base p; decide

theorem priorityOffset_pinAt (base : Pin) (k : Nat) (hk : k < 8) : priorityOffset base (pinAt base k) = k := by
  have : ∀ (base : Pin) (k : Fin 8), priorityOffset base (pinAt base k) = k := by decide
  exact this base ⟨k, hk⟩

theorem priorityOffset_inj (base p q : Pin) (h : priorityOffset base p = priorityOffset base q) : p = q := by
  rw [← pinAt_priorityOffset base p, h, pinAt_priorityOffset]

@[simp] theorem getPriority_zero (base : Pin) : getPriority base 0#8 = 8 := by simp [getPriority]

/-- Rule R81: the priority of a set is the offset of its highest-priority pin. -/
theorem getPriority_of_highestIn (base : Pin) (m : Byte) (w : Pin) (h : highestIn base m w) :
    getPriority base m = priorityOffset base w := by
  have hm : m ≠ 0 := by rintro rfl; simp [highestIn, hasBit] at h
  have hf : ((List.range 8).find? fun k => m.getLsbD ((k + base.toNat) % 8)) = some (priorityOffset base w) := by
    rw [List.find?_range_eq_some]
    refine ⟨by rw [bit_at_offset]; exact h.1, List.mem_range.2 (priorityOffset_lt base w), fun j hj => ?_⟩
    have hj8 : j < 8 := lt_trans hj (priorityOffset_lt base w)
    rw [← priorityOffset_pinAt base j hj8, bit_at_offset]
    by_contra hb
    have := h.2 (pinAt base j) (by simpa using hb)
    rw [priorityOffset_pinAt base j hj8] at this
    omega
  rw [getPriority, if_neg hm, hf]; rfl

/-- A set that is not empty has a highest-priority pin. -/
theorem exists_highestIn (base : Pin) (m : Byte) (h : m ≠ 0) : ∃ w, highestIn base m w := by
  obtain ⟨p, hp⟩ := exists_hasBit m h
  let P : Nat → Prop := fun k => ∃ q, hasBit m q = true ∧ priorityOffset base q = k
  have hP : ∃ k, P k := ⟨_, p, hp, rfl⟩
  classical
  obtain ⟨w, hw, hk⟩ := Nat.find_spec hP
  exact ⟨w, hw, fun q hq => hk ▸ Nat.find_min' hP ⟨q, hq, rfl⟩⟩

theorem getPriority_eq_eight_iff (base : Pin) (m : Byte) : getPriority base m = 8 ↔ m = 0 := by
  constructor
  · intro h
    by_contra hm
    obtain ⟨w, hw⟩ := exists_highestIn base m hm
    have := priorityOffset_lt base w
    rw [getPriority_of_highestIn base m w hw] at h
    omega
  · rintro rfl; exact getPriority_zero base

theorem lt_getPriority_iff (base : Pin) (m : Byte) (k : Nat) (hk : k < 8) :
    k < getPriority base m ↔ ∀ q, hasBit m q = true → k < priorityOffset base q := by
  by_cases hm : m = 0
  · subst hm; simp [hk, hasBit]
  · obtain ⟨w, hw⟩ := exists_highestIn base m hm
    rw [getPriority_of_highestIn base m w hw]
    exact ⟨fun h q hq => lt_of_lt_of_le h (hw.2 q hq), fun h => h w hw.1⟩

/-- Rule R82: the winner of a channel. -/
theorem getPendingIrq_eq_some_iff (c : ChannelId) (ch : PicChannel) (w : Pin) :
    getPendingIrq c ch = some w ↔
      highestIn ch.priorityBase (eligible ch) w ∧
        ∀ q, hasBit (countedService c ch) q = true →
          priorityOffset ch.priorityBase w < priorityOffset ch.priorityBase q := by
  simp only [getPendingIrq]
  by_cases hm : eligible ch = 0
  · simp [hm, highestIn, hasBit]
  · obtain ⟨v, hv⟩ := exists_highestIn ch.priorityBase _ hm
    have hpr := getPriority_of_highestIn _ _ _ hv
    have h8 := priorityOffset_lt ch.priorityBase v
    rw [hpr, if_neg (by omega), pinAt_priorityOffset]
    constructor
    · intro h
      split at h
      · rename_i hlt
        simp only [Option.some.injEq] at h
        subst h
        exact ⟨hv, (lt_getPriority_iff _ _ _ h8).1 hlt⟩
      · exact absurd h (by simp)
    · rintro ⟨hw, hq⟩
      have hvw : v = w := priorityOffset_inj ch.priorityBase v w (by rw [← hpr, getPriority_of_highestIn _ _ _ hw])
      subst hvw
      rw [if_pos ((lt_getPriority_iff _ _ _ h8).2 hq)]

/-- A winner has its request pending and unmasked. -/
theorem getPendingIrq_request (c : ChannelId) (ch : PicChannel) (w : Pin) (h : getPendingIrq c ch = some w) :
    hasBit ch.requestReg w = true ∧ hasBit ch.maskReg w = false := by
  have := ((getPendingIrq_eq_some_iff c ch w).1 h).1.1
  have hw := w.isLt
  simpa [eligible, hasBit, hw] using this

/-- Rules R93, R97: the pin that a non-specific EOI serves. -/
theorem servicedPin_of_highestIn (ch : PicChannel) (w : Pin) (h : highestIn ch.priorityBase ch.serviceReg w) :
    servicedPin ch = some w := by
  have := priorityOffset_lt ch.priorityBase w
  rw [servicedPin, getPriority_of_highestIn _ _ _ h, if_neg (by omega), pinAt_priorityOffset]

theorem servicedPin_of_zero (ch : PicChannel) (h : ch.serviceReg = 0) : servicedPin ch = none := by
  simp [servicedPin, h]

end Sys2Proof.Machine
end

