-- ==== Sys2Proof/Laws/Pic.lean ====
section
/-! SUPPORT. What the shared operations of the PIC pair do, once each: tags, the channel operations, the cascade step,
updateDelivery (`updateDelivery_eq`, `pairBecame_of_updateDelivery`) and a channel write (`chanBecame_writeChan`). -/

namespace Sys2Proof.Machine

/-! Trace tags. -/

theorem tagOf_setTag (ch : PicChannel) (p q : Pin) (t : Tag) :
    tagOf (setTag ch p t) q = if q = p then t else tagOf ch q := by
  simp only [tagOf, setTag, Vector.getElem_set]
  by_cases h : q = p
  · subst h; simp
  · have : ¬ p.toNat = q.toNat := fun h' => h (BitVec.eq_of_toNat_eq h'.symm)
    simp [h, this]

@[simp] theorem setTag_requestReg (ch : PicChannel) (p : Pin) (t : Tag) : (setTag ch p t).requestReg = ch.requestReg := rfl
@[simp] theorem setTag_lastRequestReg (ch : PicChannel) (p : Pin) (t : Tag) :
    (setTag ch p t).lastRequestReg = ch.lastRequestReg := rfl
@[simp] theorem setTag_serviceReg (ch : PicChannel) (p : Pin) (t : Tag) : (setTag ch p t).serviceReg = ch.serviceReg := rfl
@[simp] theorem setTag_maskReg (ch : PicChannel) (p : Pin) (t : Tag) : (setTag ch p t).maskReg = ch.maskReg := rfl
@[simp] theorem setTag_vectorBase (ch : PicChannel) (p : Pin) (t : Tag) : (setTag ch p t).vectorBase = ch.vectorBase := rfl
@[simp] theorem setTag_elcr (ch : PicChannel) (p : Pin) (t : Tag) : (setTag ch p t).elcr = ch.elcr := rfl
@[simp] theorem setTag_elcrMask (ch : PicChannel) (p : Pin) (t : Tag) : (setTag ch p t).elcrMask = ch.elcrMask := rfl
@[simp] theorem setTag_autoEoi (ch : PicChannel) (p : Pin) (t : Tag) : (setTag ch p t).autoEoi = ch.autoEoi := rfl

/-- The winner of a channel does not depend on the tags, the shadow, the poll flag or the vector base. -/
theorem getPendingIrq_congr (c : ChannelId) (a b : PicChannel) (h1 : a.requestReg = b.requestReg)
    (h2 : a.maskReg = b.maskReg) (h3 : a.serviceReg = b.serviceReg) (h4 : a.priorityBase = b.priorityBase)
    (h5 : a.specialMaskActive = b.specialMaskActive) (h6 : a.speciallyNestedMode = b.speciallyNestedMode) :
    getPendingIrq c a = getPendingIrq c b := by
  cases a; cases b
  simp only at h1 h2 h3 h4 h5 h6
  subst h1 h2 h3 h4 h5 h6
  rfl

/-! The acknowledge bookkeeping. -/

/-- Rule R86, every field at once. -/
theorem intack_eq (ch : PicChannel) (w : Pin) : intack ch w = { ch with
    priorityBase := if ch.autoEoi = true ∧ ch.rotateOnAutoEoi = true then w + 1 else ch.priorityBase
    serviceReg := if ch.autoEoi = true then ch.serviceReg else setBit ch.serviceReg w
    requestReg := if hasBit ch.elcr w = true then ch.requestReg else clearBit ch.requestReg w } := by
  simp only [intack]
  cases ch.autoEoi <;> cases ch.rotateOnAutoEoi <;> cases hasBit ch.elcr w <;> simp

/-! The cascade step. -/

/-- Rule R83: the master after the cascade step, pin 2 apart. -/
theorem sameButPin2_drivePin2 (m sl : PicChannel) (w : Option Pin) : (drivePin2 m sl w).sameButPin2 m := by
  refine ⟨by cases w <;> rfl, fun p hp => ?_⟩
  have hp : ¬p = 2#3 := hp
  cases w <;> simp [drivePin2, tagOf_setTag, hp] <;> rfl

theorem sameButPin2_refl (m : PicChannel) : m.sameButPin2 m := ⟨rfl, fun _ _ => ⟨rfl, rfl, rfl⟩⟩

/-- Rule R83: pin 2 of the master after the cascade step. -/
theorem drivePin2_pin2 (m sl : PicChannel) (w : Option Pin) :
    hasBit (drivePin2 m sl w).requestReg 2 = w.isSome ∧ hasBit (drivePin2 m sl w).lastRequestReg 2 = w.isSome ∧
      tagOf (drivePin2 m sl w) 2 = (w.map (tagOf sl)).getD 0 := by
  cases w <;> simp [drivePin2, tagOf_setTag]

/-- A channel is known by its agreement with another and its own pin 2. -/
theorem eq_of_sameButPin2 (a b : PicChannel) (h : a.sameButPin2 b) (h1 : hasBit a.requestReg 2 = hasBit b.requestReg 2)
    (h2 : hasBit a.lastRequestReg 2 = hasBit b.lastRequestReg 2) (h3 : tagOf a 2 = tagOf b 2) : a = b := by
  have hr : a.requestReg = b.requestReg := hasBit_ext _ _ fun p => by
    by_cases hp : p = 2
    · subst hp; exact h1
    · exact (h.2 p hp).1
  have hl : a.lastRequestReg = b.lastRequestReg := hasBit_ext _ _ fun p => by
    by_cases hp : p = 2
    · subst hp; exact h2
    · exact (h.2 p hp).2.1
  have ht : a.traceTag = b.traceTag := by
    apply Vector.ext
    intro i hi
    have hi' : (BitVec.ofNat 3 i).toNat = i := by simp; omega
    have : tagOf a (BitVec.ofNat 3 i) = tagOf b (BitVec.ofNat 3 i) := by
      by_cases hp : BitVec.ofNat 3 i = 2
      · rw [hp]; exact h3
      · exact (h.2 _ hp).2.2
    simpa [tagOf, Nat.mod_eq_of_lt hi] using this
  rw [h.1, hr, hl, ht]

theorem sameButPin2_trans {a b c : PicChannel} (h : a.sameButPin2 b) (h' : b.sameButPin2 c) : a.sameButPin2 c := by
  refine ⟨?_, fun p hp => ⟨?_, ?_, ?_⟩⟩
  · rw [h.1, h'.1]
  · rw [(h.2 p hp).1, (h'.2 p hp).1]
  · rw [(h.2 p hp).2.1, (h'.2 p hp).2.1]
  · rw [(h.2 p hp).2.2, (h'.2 p hp).2.2]

/-! updateDelivery. -/

/-- Rules R84, R85: the first pass always returns, with the cascade done and the output at the master's winner. -/
theorem deliveryPass_eq (s : State) : s.deliveryPass =
    ({ s with
        pair := { master := drivePin2 s.pair.master s.pair.slave (s.winner .slave), slave := s.pair.slave
                  intOut := (getPendingIrq .master (drivePin2 s.pair.master s.pair.slave (s.winner .slave))).isSome }
        picOut := lineEvent
          (getPendingIrq .master (drivePin2 s.pair.master s.pair.slave (s.winner .slave))).isSome :: s.picOut }, true) := by
  simp only [State.deliveryPass]
  have hw : (s.cascade (s.winner .slave)).winner .master =
      getPendingIrq .master (drivePin2 s.pair.master s.pair.slave (s.winner .slave)) := rfl
  rw [hw]
  split
  · rename_i h; rw [h]; rfl
  · rename_i m h
    have h2 : m ≠ 2 ∨ (s.winner .slave).isSome = true := by
      by_cases hm : m = 2
      · right
        rw [← (drivePin2_pin2 s.pair.master s.pair.slave (s.winner .slave)).1]
        subst hm; exact (getPendingIrq_request _ _ _ h).1
      · exact .inl hm
    rw [if_pos h2, h]; rfl

/-- Rules R84, R85: all that updateDelivery does. -/
theorem updateDelivery_eq (s : State) : s.updateDelivery =
    { s with
      pair := { master := drivePin2 s.pair.master s.pair.slave (s.winner .slave), slave := s.pair.slave
                intOut := (getPendingIrq .master (drivePin2 s.pair.master s.pair.slave (s.winner .slave))).isSome }
      picOut := lineEvent
        (getPendingIrq .master (drivePin2 s.pair.master s.pair.slave (s.winner .slave))).isSome :: s.picOut } := by
  simp only [State.updateDelivery, deliveryPass_eq]

theorem updateDelivery_settled (s : State) : s.updateDelivery.settled := by
  rw [updateDelivery_eq]
  obtain ⟨h1, h2, h3⟩ := drivePin2_pin2 s.pair.master s.pair.slave (s.winner .slave)
  exact ⟨h1, h2, h3, rfl⟩

/-- The settled output is a fixed point: updateDelivery only repeats the output call. -/
theorem updateDelivery_of_settled (s : State) (h : s.settled) :
    s.updateDelivery = { s with picOut := lineEvent s.pair.intOut :: s.picOut } := by
  have hm : drivePin2 s.pair.master s.pair.slave (s.winner .slave) = s.pair.master := by
    obtain ⟨h1, h2, h3⟩ := drivePin2_pin2 s.pair.master s.pair.slave (s.winner .slave)
    exact eq_of_sameButPin2 _ _ (sameButPin2_drivePin2 ..) (h1.trans h.1.symm) (h2.trans h.2.1.symm)
      (h3.trans h.2.2.1.symm)
  have ho : (getPendingIrq .master s.pair.master).isSome = s.pair.intOut := h.2.2.2.symm
  rw [updateDelivery_eq, hm, ho]

/-- Rules R84, R90: updateDelivery after the pair has been put into `u.pair` and `before` has been sent out. -/
theorem pairBecame_of_updateDelivery (s u : State) (before after : List PicEvent) (hf : s.picFrame u)
    (hb : u.picOut = before ++ s.picOut) (t : State) (htp : t.pair = u.updateDelivery.pair) (htf : u.picFrame t)
    (hto : t.picOut = after ++ u.updateDelivery.picOut) :
    s.pairBecame u.pair.master u.pair.slave before after t := by
  have hs := updateDelivery_settled u
  rw [updateDelivery_eq] at htp hto
  refine ⟨?_, ?_, ?_, ?_, ?_⟩
  · rw [htp]; exact sameButPin2_drivePin2 ..
  · rw [htp]
  · rw [updateDelivery_eq] at hs
    simpa [State.settled, State.winner, State.chan, htp] using hs
  · obtain ⟨a1, a2, a3, a4, a5, a6⟩ := hf
    obtain ⟨b1, b2, b3, b4, b5, b6⟩ := htf
    exact ⟨b1.trans a1, b2.trans a2, b3.trans a3, b4.trans a4, b5.trans a5, b6.trans a6⟩
  · rw [hto, htp, hb]

theorem picFrame_refl (s : State) : s.picFrame s := ⟨rfl, rfl, rfl, rfl, rfl, rfl⟩

theorem picFrame_setChan (s : State) (c : ChannelId) (ch : PicChannel) : s.picFrame (s.setChan c ch) := by
  cases c <;> exact ⟨rfl, rfl, rfl, rfl, rfl, rfl⟩

theorem picFrame_updateDelivery (s : State) : s.picFrame s.updateDelivery := by
  rw [updateDelivery_eq]; exact ⟨rfl, rfl, rfl, rfl, rfl, rfl⟩

theorem picFrame_emitPic (s : State) (e : PicEvent) : s.picFrame (s.emitPic e) := ⟨rfl, rfl, rfl, rfl, rfl, rfl⟩

theorem picFrame_trans {s t u : State} (h : s.picFrame t) (h' : t.picFrame u) : s.picFrame u := by
  obtain ⟨a1, a2, a3, a4, a5, a6⟩ := h
  obtain ⟨b1, b2, b3, b4, b5, b6⟩ := h'
  exact ⟨b1.trans a1, b2.trans a2, b3.trans a3, b4.trans a4, b5.trans a5, b6.trans a6⟩

/-- Rule R90: all that a write of one channel does, with `before` sent out before it and `e` after it. -/
theorem chanBecame_writeChan (s : State) (c : ChannelId) (ch : PicChannel) :
    s.chanBecame c ch [] [] (s.writeChan c ch) := by
  have h := pairBecame_of_updateDelivery s (s.setChan c ch) [] [] (picFrame_setChan s c ch) (by simp)
    (s.writeChan c ch) rfl (picFrame_updateDelivery _) rfl
  cases c <;> exact h

/-- The channel that a write puts in place keeps every field but the pin 2 of the master. -/
theorem writeChan_chan (s : State) (c : ChannelId) (ch : PicChannel) : ((s.writeChan c ch).chan c).sameButPin2 ch := by
  have h := chanBecame_writeChan s c ch
  cases c
  · exact h.1
  · have h2 : (s.writeChan .slave ch).pair.slave = ch := h.2.1
    simp only [chan_slave, h2]; exact sameButPin2_refl ch

/-- The other channel keeps every field but the pin 2 of the master. -/
theorem writeChan_chan_other (s : State) (c d : ChannelId) (hd : d ≠ c) (ch : PicChannel) :
    ((s.writeChan c ch).chan d).sameButPin2 (s.chan d) := by
  have h := chanBecame_writeChan s c ch
  cases c <;> cases d <;> simp only [ne_eq, not_true_eq_false, reduceCtorEq, not_false_eq_true] at hd
  · have h2 : (s.writeChan .master ch).pair.slave = s.pair.slave := h.2.1
    simp only [chan_slave, h2]; exact sameButPin2_refl _
  · exact h.1

theorem picFrame_writeChan (s : State) (c : ChannelId) (ch : PicChannel) : s.picFrame (s.writeChan c ch) :=
  picFrame_trans (picFrame_setChan s c ch) (picFrame_updateDelivery _)

theorem writeChan_settled (s : State) (c : ChannelId) (ch : PicChannel) : (s.writeChan c ch).settled :=
  updateDelivery_settled _

/-- The settled output reads only the pair. -/
theorem settled_congr {s t : State} (h : t.pair = s.pair) (hs : s.settled) : t.settled := by
  simpa [State.settled, State.winner, State.chan, h] using hs

theorem mem_sameButPin2_fields {a b : PicChannel} (h : a.sameButPin2 b) :
    a.maskReg = b.maskReg ∧ a.serviceReg = b.serviceReg ∧ a.priorityBase = b.priorityBase ∧
      a.vectorBase = b.vectorBase ∧ a.elcr = b.elcr ∧ a.elcrMask = b.elcrMask ∧ a.initStep = b.initStep ∧
      a.autoEoi = b.autoEoi ∧ a.pollModeActive = b.pollModeActive := by
  rw [h.1]; simp

end Sys2Proof.Machine
end

