-- ==== Sys2Proof/Laws/Frames.lean ====
section
/-! SUPPORT. Which side of the block an operation touches: an operation of the PIC pair leaves everything else alone
(`picFrame_of_exec`), an operation of the I/O APIC leaves the PIC pair alone (`ioFrame_of_exec`), and the I/O APIC's
fields keep their widths (`fits_of_exec`). -/

namespace Sys2Proof

/-- The operations of the PIC pair. The device reset acts on both controllers and is none of them. -/
def Instr.onPic : Instr → Bool
  | .mmioIdxRd | .mmioIdxWr _ | .idRd | .idWr _ | .verRd | .verWr _ | .arbRd | .arbWr _ => false
  | .rteLoRd _ | .rteLoWr .. | .rteHiRd _ | .rteHiWr .. | .unusedRd | .unusedWr _ => false
  | .mmioEoiWr _ | .mmioOtherRd _ | .mmioOtherWr .. => false
  | .ioSetline .. | .ioSeteoi _ | .ioSendmsi .. | .reset => false
  | _ => true

namespace Machine

theorem fits_iff (v : VariantRecord) (io : IoApic) : io.fits v = true ↔
   (io.apicId &&& ~~~v.idMask = 0 ∧ io.rte.length = v.pinCount ∧ io.traceTag.length = v.pinCount ∧
    (∀ k, v.pinCount ≤ k → io.pendingLevelBitmap.getLsbD k = false) ∧
    (∀ k, v.pinCount ≤ k → io.flipFlopBitmap.getLsbD k = false)) := by
  have sh : ∀ (x : BitVec maxPins) (n : Nat), (x >>> n = 0) ↔ ∀ k, n ≤ k → x.getLsbD k = false := by
    intro x n
    constructor
    · intro h k hk
      have := congrArg (fun y : BitVec maxPins => y.getLsbD (k - n)) h
      simp only [BitVec.getLsbD_ushiftRight] at this
      rw [show n + (k - n) = k by omega] at this
      simpa using this
    · intro h
      apply BitVec.eq_of_getLsbD_eq
      intro i hi
      simp [BitVec.getLsbD_ushiftRight, h (n + i) (by omega)]
  simp only [IoApic.fits, Bool.and_eq_true, beq_iff_eq, sh, and_assoc]

theorem fits_acceptedIo (v : VariantRecord) (io : IoApic) (p : Nat) (h : io.fits v = true) :
    (acceptedIo io p).fits v = true := by
  rw [fits_iff] at h ⊢
  simp only [acceptedIo]
  split
  · simpa using h
  split
  · obtain ⟨a, b, c, d, e⟩ := h
    refine ⟨a, b, by simpa using c, fun k hk => ?_, e⟩
    simp [d k hk]
  · exact h

theorem fits_signalPending (s : State) (v : VariantRecord) (p : Nat) (h : s.io.fits v = true) :
    (s.signalPending p).io.fits v = true := by
  rw [signalPending_cases]
  split
  · exact h
  split
  · exact h
  split
  · rw [accepted_eq]; exact fits_acceptedIo _ _ _ (by rw [deliver_io]; exact h)
  · rw [deliver_io]; exact h

theorem fits_setRte (s : State) (v : VariantRecord) (p : Nat) (e) (h : s.io.fits v = true) :
    (s.setRte p e).io.fits v = true := by
  rw [fits_iff] at h ⊢
  simpa [State.setRte] using h
theorem fits_setIoTag (s : State) (v : VariantRecord) (p : Nat) (e) (h : s.io.fits v = true) :
    (s.setIoTag p e).io.fits v = true := by
  rw [fits_iff] at h ⊢
  simpa [State.setIoTag] using h
theorem fits_setPending (s : State) (v : VariantRecord) (p : Nat) (hp : p < v.pinCount) (h : s.io.fits v = true) :
    (s.setPending p).io.fits v = true := by
  rw [fits_iff] at h ⊢
  obtain ⟨a, b, c, d, e⟩ := h
  refine ⟨a, b, c, fun k hk => ?_, e⟩
  simp [State.setPending, setPinBit, d k hk]
  grind
theorem fits_setFlipFlop (s : State) (v : VariantRecord) (p : Nat) (hp : p < v.pinCount) (h : s.io.fits v = true) :
    (s.setFlipFlop p).io.fits v = true := by
  rw [fits_iff] at h ⊢
  obtain ⟨a, b, c, d, e⟩ := h
  refine ⟨a, b, c, d, fun k hk => ?_⟩
  simp [State.setFlipFlop, setPinBit, e k hk]
  grind
theorem fits_clearPending (s : State) (v : VariantRecord) (p : Nat) (h : s.io.fits v = true) :
    (s.clearPending p).io.fits v = true := by
  rw [fits_iff] at h ⊢
  obtain ⟨a, b, c, d, e⟩ := h
  refine ⟨a, b, c, fun k hk => ?_, e⟩
  simp [State.clearPending, clearPinBit, d k hk]
theorem fits_clearFlipFlop (s : State) (v : VariantRecord) (p : Nat) (h : s.io.fits v = true) :
    (s.clearFlipFlop p).io.fits v = true := by
  rw [fits_iff] at h ⊢
  obtain ⟨a, b, c, d, e⟩ := h
  refine ⟨a, b, c, d, fun k hk => ?_⟩
  simp [State.clearFlipFlop, clearPinBit, e k hk]
theorem fits_eoiPin (s : State) (v : VariantRecord) (x p) (h : s.io.fits v = true) :
    (s.eoiPin x p).io.fits v = true := by
  simp only [State.eoiPin]
  split
  · split
    · exact fits_signalPending _ _ _ (fits_setRte _ _ _ _ h)
    · exact fits_setRte _ _ _ _ h
  · exact h
theorem fits_setEoi (s : State) (v : VariantRecord) (x) (h : s.io.fits v = true) : (s.setEoi x).io.fits v = true := by
  simp only [State.setEoi]
  generalize List.range s.record.pinCount = l
  induction l generalizing s with
  | nil => exact h
  | cons a l ih => exact ih _ (fits_eoiPin _ _ _ _ h)

theorem ioFrame_eoiPin (s : State) (x p) : s.ioFrame (s.eoiPin x p) := by
  simp only [State.eoiPin]
  split
  · split
    · exact ioFrame_trans (ioFrame_of_io _ _) (ioFrame_signalPending _ _)
    · exact ioFrame_of_io _ _
  · exact ioFrame_refl s
theorem ioFrame_setEoi (s : State) (x) : s.ioFrame (s.setEoi x) := by
  simp only [State.setEoi]
  generalize List.range s.record.pinCount = l
  induction l generalizing s with
  | nil => exact ioFrame_refl s
  | cons a l ih => exact ioFrame_trans (ioFrame_eoiPin _ _ _) (ih _)

theorem fits_afterReset (p : Params) : (IoApic.afterReset p).fits p.record = true := by
  rw [fits_iff]
  refine ⟨?_, by simp [IoApic.afterReset], by simp [IoApic.afterReset], by simp [IoApic.afterReset],
    by simp [IoApic.afterReset]⟩
  simp only [IoApic.afterReset]
  ext i hi
  simp

theorem picFrame_pollRead (s : State) (c) : s.picFrame (s.pollRead c) := by
  simp only [State.pollRead, State.returnByte]
  exact picFrame_trans (picFrame_writeChan _ _ _) (picFrame_emitPic _ _)
theorem picFrame_acknowledge (s : State) : s.picFrame s.acknowledge := by
  simp only [State.acknowledge]
  have : s.picFrame s.acknowledgeWinner.1 := by
    simp only [State.acknowledgeWinner]
    split
    · exact picFrame_refl s
    split
    · split
      · exact picFrame_setChan _ _ _
      · exact picFrame_trans (picFrame_setChan _ _ _) (picFrame_setChan _ _ _)
    · exact picFrame_trans (picFrame_setChan _ _ _) (picFrame_setChan _ _ _)
  exact picFrame_trans this (picFrame_trans (picFrame_updateDelivery _) (picFrame_emitPic _ _))


theorem next_inj {a b : State} (h : (Host.Outcome.next a : Host.Outcome State Fault Refusal) = .next b) : b = a := by
  cases h; rfl

theorem ioFrame_writeRteHalf (s : State) (p h v) : s.ioFrame (s.writeRteHalf p h v) := by
  simp only [State.writeRteHalf]
  split
  · refine ioFrame_trans (ioFrame_of_io _ _) (ioFrame_signalPending _ _)
  · exact ioFrame_of_io _ _
theorem ioFrame_assertIoPin (s : State) (p) : s.ioFrame (s.assertIoPin p) := by
  simp only [State.assertIoPin]
  split
  · split
    · refine ioFrame_trans ?_ (ioFrame_signalPending _ _)
      exact ioFrame_of_io _ _
    · exact ioFrame_of_io _ _
  · refine ioFrame_trans ?_ (ioFrame_signalPending _ _)
    exact ioFrame_of_io _ _
theorem ioFrame_flipFlopIoPin (s : State) (p) : s.ioFrame (s.flipFlopIoPin p) := by
  simp only [State.flipFlopIoPin]
  refine ioFrame_trans ?_ (ioFrame_signalPending _ _)
  exact ioFrame_of_io _ _
theorem ioFrame_emitIo (s : State) (e) : s.ioFrame (s.emitIo e) := ⟨rfl,rfl,rfl,rfl⟩
theorem ioFrame_deliver (s : State) (d) : s.ioFrame (s.deliver d).1 := by
  rw [(deliver_spec _ _).1]; exact ⟨rfl,rfl,rfl,rfl⟩

theorem ioFrame_of_exec (i : Instr) (s t : State)
    (h : exec i s = .next t) (hi : Instr.onPic i = false) (hr : i ≠ .reset) :
    s.ioFrame t := by
  cases i with
  | mmioIdxRd => rw [next_inj h]; exact ioFrame_emitIo _ _
  | mmioIdxWr => rw [next_inj h]; exact ioFrame_of_io _ _
  | idRd => rw [next_inj h]; exact ioFrame_emitIo _ _
  | idWr => rw [next_inj h]; exact ioFrame_of_io _ _
  | verRd => rw [next_inj h]; exact ioFrame_emitIo _ _
  | verWr => rw [next_inj h]; exact ioFrame_refl _
  | arbRd => rw [next_inj h]; exact ioFrame_emitIo _ _
  | arbWr => rw [next_inj h]; exact ioFrame_refl _
  | rteLoRd => rw [next_inj h]; exact ioFrame_emitIo _ _
  | rteHiRd => rw [next_inj h]; exact ioFrame_emitIo _ _
  | rteLoWr => rw [next_inj h]; exact ioFrame_writeRteHalf _ _ _ _
  | rteHiWr => rw [next_inj h]; exact ioFrame_writeRteHalf _ _ _ _
  | unusedRd => rw [next_inj h]; exact ioFrame_trans (ioFrame_emitIo _ _) (ioFrame_emitIo _ _)
  | unusedWr => rw [next_inj h]; exact ioFrame_emitIo _ _
  | mmioOtherRd => rw [next_inj h]; exact ioFrame_trans (ioFrame_emitIo _ _) (ioFrame_emitIo _ _)
  | mmioOtherWr => rw [next_inj h]; exact ioFrame_emitIo _ _
  | mmioEoiWr => rw [next_inj h]; exact ioFrame_setEoi _ _
  | ioSeteoi => rw [next_inj h]; exact ioFrame_setEoi _ _
  | ioSendmsi => rw [next_inj h]; exact ioFrame_deliver _ _
  | ioSetline pin level tag ff =>
    simp only [exec, execIoSetline] at h
    split at h
    · rw [next_inj h]; exact ioFrame_emitIo _ _
    split at h <;> rw [next_inj h]
    · exact ioFrame_trans (ioFrame_of_io _ _) (ioFrame_flipFlopIoPin _ _)
    · exact ioFrame_of_io _ _
    · exact ioFrame_trans (ioFrame_of_io _ _) (ioFrame_assertIoPin _ _)
  | reset => exact absurd rfl hr
  | _ => cases hi

theorem picFrame_logPicIf (s : State) (b k) : s.picFrame (s.logPicIf b k) := by
  cases b
  · exact picFrame_refl s
  · exact picFrame_emitPic _ _
theorem picFrame_of_exec (i : Instr) (s t : State) (h : exec i s = .next t) (hi : Instr.onPic i = true) :
    s.picFrame t := by
  cases i with
  | icw1 c a b e f g =>
    rw [next_inj h]
    refine picFrame_trans ?_ (picFrame_updateDelivery _)
    refine picFrame_trans (picFrame_setChan s c (startInit (s.chan c) a)) ?_
    · exact picFrame_trans (picFrame_logPicIf _ _ _) (picFrame_logPicIf _ _ _)
  | rdIrrIsr =>
    simp only [exec, execRdIrrIsr] at h
    split at h <;> rw [next_inj h]
    · exact picFrame_pollRead _ _
    · exact picFrame_emitPic _ _
  | rdPoll => rw [next_inj h]; exact picFrame_pollRead _ _
  | rdImr => rw [next_inj h]; exact picFrame_emitPic _ _
  | elcrRd => rw [next_inj h]; exact picFrame_emitPic _ _
  | picAck => rw [next_inj h]; exact picFrame_acknowledge _
  | picSetline =>
    simp only [exec, execPicSetline] at h
    split at h
    · rw [next_inj h]; exact picFrame_emitPic _ _
    split at h <;> rw [next_inj h]
    · exact picFrame_writeChan _ _ _
    · exact picFrame_writeChan _ _ _
    · exact picFrame_trans (picFrame_writeChan _ _ _) (picFrame_writeChan _ _ _)
  | ocw2RotateAeoiClear | ocw2Nseoi | ocw2Nop | ocw2Seoi | ocw2RotateAeoiSet | ocw2Rnseoi |
      ocw2Setprio | ocw2Rseoi | ocw3 | ocw1 | icw2 | icw3 | icw4 | elcrWr =>
    rw [next_inj h]; exact picFrame_writeChan _ _ _
  | _ => cases hi

theorem fits_writeRteHalf (s : State) (v) (p h x) (hf : s.io.fits v = true) :
    (s.writeRteHalf p h x).io.fits v = true := by
  simp only [State.writeRteHalf]; split
  · exact fits_signalPending _ _ _ (fits_setRte _ _ _ _ hf)
  · exact fits_setRte _ _ _ _ hf

theorem fits_of_exec (i : Instr) (s t : State) (hf : s.io.fits s.record = true)
    (h : exec i s = .next t) (hi : Instr.onPic i = false) (hr : i ≠ .reset) :
    t.io.fits s.record = true := by
  cases i with
  | mmioIdxRd => rw [next_inj h]; exact hf
  | mmioIdxWr => rw [next_inj h]; exact hf
  | idRd => rw [next_inj h]; exact hf
  | idWr =>
    rw [next_inj h]
    rw [fits_iff] at hf ⊢
    refine ⟨?_, hf.2⟩
    ext i hi
    simp
  | verRd => rw [next_inj h]; exact hf
  | verWr => rw [next_inj h]; exact hf
  | arbRd => rw [next_inj h]; exact hf
  | arbWr => rw [next_inj h]; exact hf
  | rteLoRd => rw [next_inj h]; exact hf
  | rteHiRd => rw [next_inj h]; exact hf
  | rteLoWr => rw [next_inj h]; exact fits_writeRteHalf _ _ _ _ _ hf
  | rteHiWr => rw [next_inj h]; exact fits_writeRteHalf _ _ _ _ _ hf
  | unusedRd => rw [next_inj h]; exact hf
  | unusedWr => rw [next_inj h]; exact hf
  | mmioOtherRd => rw [next_inj h]; exact hf
  | mmioOtherWr => rw [next_inj h]; exact hf
  | mmioEoiWr => rw [next_inj h]; exact fits_setEoi _ _ _ hf
  | ioSeteoi => rw [next_inj h]; exact fits_setEoi _ _ _ hf
  | ioSendmsi f tag => rw [next_inj h, deliver_io]; exact hf
  | ioSetline pin level tag ff =>
    simp only [exec, execIoSetline] at h
    split at h
    · rw [next_inj h]; exact hf
    rename_i hp
    have hp := Nat.lt_of_not_le hp
    have ht := fits_setIoTag s s.record pin.toNat (tagMerge (s.ioTag pin.toNat) tag) hf
    split at h <;> rw [next_inj h]
    · simp only [State.flipFlopIoPin]
      exact fits_signalPending _ _ _ (fits_setPending _ _ _ hp (fits_setFlipFlop _ _ _ hp ht))
    · exact fits_setIoTag _ _ _ _ (fits_clearPending _ _ _ hf)
    · simp only [State.assertIoPin]
      have h1 := fits_clearFlipFlop _ _ pin.toNat ht
      split
      · split
        · exact fits_signalPending _ _ _ h1
        · exact h1
      · exact fits_signalPending _ _ _ (fits_setPending _ _ _ hp h1)
  | reset => exact absurd rfl hr
  | _ => cases hi

end Machine
end Sys2Proof
end

