-- ==== Sys2Proof/Tests/Slice0.lean ====
section
/-! SUPPORT. Tests of the model: expected values are copied from spec/95_test_vectors.md or worked out by hand from the rule
named. One step each, on a small state. Then, for every obligation that has hypotheses, a state and operands that meet them
(`witness_<the obligation>`). -/

open Sys2Proof Sys2Proof.Machine

namespace Sys2Proof.Tests

/-! Builders of small states. -/

/-- What a view of the next state shows, if there is one. -/
def seen {α : Type} (i : Instr) (s : State) (view : State → α) : Option α :=
  match exec i s with
  | .next t => some (view t)
  | _ => none

/-- A channel at power-on, with the master's `elcrMask`. -/
def power : PicChannel := PicChannel.powerOn 0xF8

/-- The reset state with the master changed. -/
def master (f : PicChannel → PicChannel) : State := State.reset.setChan .master (f power)

/-- The reset state with one redirection entry changed. -/
def entryAt (p : Nat) (e : Entry) : State := State.reset.setRte p e

/-- `entryAt`, with the pin pending and the target's answers fixed. -/
def pendingAt (p : Nat) (e : Entry) (answers : List Answer) : State :=
  { (entryAt p e).setPending p with targetScript := answers }

/-- Decision D1: the parameters of `VAR_82093AA`. -/
def olderParams : Params := { Params.default with variant := .i82093aa }

/-- The reset state of a block of that variant. -/
def older : State := { State.reset with params := olderParams, io := IoApic.afterReset olderParams }

/-- A 16-pin variant; the fields the spec leaves OPEN are those of `VAR_ICH9` here. -/
def smallParams : Params :=
  { Params.default with variant := .pin16 { idWidth := .eight, versionByte := 0x20, hasArbReg := false,
                                            hasEoiReg := true, rteWriteMask := 0xFFFF00000001AFFF,
                                            rteReadMask := 0xFFFF00000001FFFF } }

/-- Its variant record. -/
def small16 : VariantRecord := smallParams.record

/-- Scenario 3 after line 5, with only the fields that matter. -/
def cascaded : State :=
  ((master fun ch => { ch with vectorBase := 0x20, maskReg := 0xFB, requestReg := 0x04, lastRequestReg := 0x04,
                               traceTag := ch.traceTag.set 2 0x33 }).setChan .slave
    { PicChannel.powerOn 0xDE with vectorBase := 0x28, maskReg := 0xF7, requestReg := 0x08, lastRequestReg := 0x08,
                                   traceTag := power.traceTag.set 3 0x33 }).intrRaise

/-- Vector PA5: master pin 2 requested, and no slave request. -/
def restoredPin2 : State :=
  (master fun ch => { ch with vectorBase := 0x20, requestReg := 0x04 }).setChan .slave
    { PicChannel.powerOn 0xDE with vectorBase := 0x28 }

/-- Vector ID9. -/
def twoLevels : State :=
  { ((((entryAt 1 0x000000000000C050).setRte 6 0x000000000000C050).setPending 1).setPending 6) with
    targetScript := [.accept, .accept] }

/-- Vector RS1. -/
def dirty : State :=
  let s := (pendingAt 0 0x000000000000C030 []).setChan .master
    { power with elcr := 0x08, maskReg := 0xFF, traceTag := power.traceTag.set 3 9 }
  { s with pair := { s.pair with intOut := true } }

/-- A block whose remap hook is not the identity. -/
def oracle : State := { State.reset with params := { Params.default with remap := .oracle } }

/-- The descriptor of an entry of zeros. -/
def blank : Descriptor :=
  { vector := 0, deliveryMode := 0, destinationMode := false, polarity := false, triggerMode := false, destination := 0
    extendedDestination := 0, tag := 0 }

/-- The message of vector ID13. -/
def message : MsiFields :=
  { vector := 0x41, deliveryMode := 0, destinationMode := false, polarity := false, triggerMode := true
    destination := 0x01, extendedDestination := 0 }

/-! Well-formedness: one ill-formed term for each check, which the check refuses (rules R34, R66, R67, R127). -/

theorem test_rejects_missing_pin :
    (Instr.rteLoRd 24).wellFormed .ich9 = false ∧ (Instr.rteLoWr 24 0).wellFormed .ich9 = false ∧
      (Instr.rteHiRd 24).wellFormed .ich9 = false ∧ (Instr.rteHiWr 24 0).wellFormed .ich9 = false ∧
      (Instr.rteHiWr 23 0).wellFormed .ich9 = true := by decide

theorem test_rejects_missing_pin_of_the_small_table :
    (Instr.rteLoRd 16).wellFormed small16 = false ∧ (Instr.rteLoRd 15).wellFormed small16 = true := by decide

theorem test_rejects_missing_arbitration_register :
    Instr.arbRd.wellFormed .ich9 = false ∧ (Instr.arbWr 0).wellFormed .ich9 = false ∧
      Instr.arbRd.wellFormed .i82093aa = true := by decide

theorem test_rejects_missing_eoi_register :
    (Instr.mmioEoiWr 0x30).wellFormed .i82093aa = false ∧ (Instr.mmioEoiWr 0x30).wellFormed .ich9 = true := by decide

theorem test_rejects_other_offsets_that_name_a_register :
    (Instr.mmioOtherRd 0x00).wellFormed .ich9 = false ∧ (Instr.mmioOtherRd 0x10).wellFormed .ich9 = false ∧
      (Instr.mmioOtherWr 0x00 0).wellFormed .ich9 = false ∧ (Instr.mmioOtherWr 0x10 0).wellFormed .ich9 = false ∧
      (Instr.mmioOtherWr 0x40 0).wellFormed .ich9 = false ∧ (Instr.mmioOtherWr 0x40 0).wellFormed .i82093aa = true := by decide

theorem test_rejects_misaligned_other_offset :
    (Instr.mmioOtherRd 0x22).wellFormed .ich9 = false ∧ (Instr.mmioOtherWr 0x41 0).wellFormed .ich9 = false := by decide

/-! Decoding: an access written out by hand from the tables of 30_encoding.md, for every constructor. -/

/-- Rule R58: A7..A5, 1, LTIM, ADI, SNGL, IC4. -/
theorem test_decode_icw1 :
    decode DecodeMode.afterReset (.portWrite 0x20 [0b00010001]) = .ok (.icw1 .master true false false false 0) ∧
      decode DecodeMode.afterReset (.portWrite 0xA0 [0b10111110]) = .ok (.icw1 .slave false true true true 5) := by decide

/-- Rules R57, R59: the code in bits 7:5, 00, and L in bits 2:0. -/
theorem test_decode_ocw2 :
    decode DecodeMode.afterReset (.portWrite 0x20 [0b00000111]) = .ok (.ocw2RotateAeoiClear .master 7) ∧
      decode DecodeMode.afterReset (.portWrite 0x20 [0b00100110]) = .ok (.ocw2Nseoi .master 6) ∧
      decode DecodeMode.afterReset (.portWrite 0x20 [0b01000101]) = .ok (.ocw2Nop .master 5) ∧
      decode DecodeMode.afterReset (.portWrite 0x20 [0b01100100]) = .ok (.ocw2Seoi .master 4) ∧
      decode DecodeMode.afterReset (.portWrite 0x20 [0b10000011]) = .ok (.ocw2RotateAeoiSet .master 3) ∧
      decode DecodeMode.afterReset (.portWrite 0x20 [0b10100010]) = .ok (.ocw2Rnseoi .master 2) ∧
      decode DecodeMode.afterReset (.portWrite 0x20 [0b11000001]) = .ok (.ocw2Setprio .master 1) ∧
      decode DecodeMode.afterReset (.portWrite 0x20 [0b11100000]) = .ok (.ocw2Rseoi .master 0) := by decide

/-- Rule R60, and vector PW18: bit 3 is 1, so the byte is no OCW2. -/
theorem test_decode_ocw3 :
    decode DecodeMode.afterReset (.portWrite 0xA0 [0b01101011]) = .ok (.ocw3 .slave true true false true true false) ∧
      decode DecodeMode.afterReset (.portWrite 0x20 [0b10001100]) = .ok (.ocw3 .master false false true false false true) := by decide

/-- Rules R61, R63: the channel's own `initStep` selects. -/
theorem test_decode_data_byte :
    decode DecodeMode.afterReset (.portWrite 0x21 [0xFB]) = .ok (.ocw1 .master 0xFB) ∧
      decode { DecodeMode.afterReset with masterStep := 1 } (.portWrite 0x21 [0x23]) = .ok (.icw2 .master 0x23) ∧
      decode { DecodeMode.afterReset with slaveStep := 2 } (.portWrite 0xA1 [0x02]) = .ok (.icw3 .slave 0x02) ∧
      decode { DecodeMode.afterReset with slaveStep := 3 } (.portWrite 0xA1 [0b01011010]) =
        .ok (.icw4 .slave false true false true true 2) ∧
      decode { DecodeMode.afterReset with masterStep := 1 } (.portWrite 0xA1 [0x23]) = .ok (.ocw1 .slave 0x23) := by decide

theorem test_decode_port_reads :
    decode DecodeMode.afterReset (.portRead 0x20 1) = .ok (.rdIrrIsr .master) ∧
      decode { DecodeMode.afterReset with slavePoll := true } (.portRead 0xA0 1) = .ok (.rdPoll .slave) ∧
      decode { DecodeMode.afterReset with slavePoll := true } (.portRead 0x20 1) = .ok (.rdIrrIsr .master) ∧
      decode DecodeMode.afterReset (.portRead 0xA1 1) = .ok (.rdImr .slave) := by decide

theorem test_decode_elcr :
    decode DecodeMode.afterReset (.portWrite 0x4D1 [0xFF]) = .ok (.elcrWr .slave 0xFF) ∧
      decode DecodeMode.afterReset (.portRead 0x4D0 1) = .ok (.elcrRd .master) := by decide

/-- Rules R42, R66: the byte at the lowest address is bits 7:0. -/
theorem test_decode_index_register :
    decode DecodeMode.afterReset (.mmioWrite 0xFEC00000 [0x12, 0x01, 0x00, 0x00]) = .ok (.mmioIdxWr 0x00000112) ∧
      decode DecodeMode.afterReset (.mmioRead 0xFEC00000 4) = .ok .mmioIdxRd := by decide

/-- Rule R67. -/
theorem test_decode_small_registers :
    decode { DecodeMode.afterReset with selectedIndex := 0x00 } (.mmioRead 0xFEC00010 4) = .ok .idRd ∧
      decode { DecodeMode.afterReset with selectedIndex := 0x00 } (.mmioWrite 0xFEC00010 [0x00, 0x00, 0x00, 0x0A]) = .ok (.idWr 0x0A000000) ∧
      decode { DecodeMode.afterReset with selectedIndex := 0x01 } (.mmioRead 0xFEC00010 4) = .ok .verRd ∧
      decode { DecodeMode.afterReset with selectedIndex := 0x01 } (.mmioWrite 0xFEC00010 [0x00, 0x00, 0x00, 0x00]) = .ok (.verWr 0) ∧
      decode { DecodeMode.afterReset with selectedIndex := 0x02, params := olderParams } (.mmioRead 0xFEC00010 4) = .ok .arbRd ∧
      decode { DecodeMode.afterReset with selectedIndex := 0x02, params := olderParams } (.mmioWrite 0xFEC00010 [0x00, 0x00, 0x00, 0x0F]) =
        .ok (.arbWr 0x0F000000) := by decide

/-- Rules R67, R71: `p = (i - 0x10) >> 1`, even for the low word. -/
theorem test_decode_redirection_table :
    decode { DecodeMode.afterReset with selectedIndex := 0x10 } (.mmioRead 0xFEC00010 4) = .ok (.rteLoRd 0) ∧
      decode { DecodeMode.afterReset with selectedIndex := 0x18 } (.mmioWrite 0xFEC00010 [0x30, 0x80, 0x00, 0x00]) =
        .ok (.rteLoWr 4 0x00008030) ∧
      decode { DecodeMode.afterReset with selectedIndex := 0x3F } (.mmioRead 0xFEC00010 4) = .ok (.rteHiRd 23) ∧
      decode { DecodeMode.afterReset with selectedIndex := 0x19 } (.mmioWrite 0xFEC00010 [0x00, 0x00, 0x00, 0x01]) =
        .ok (.rteHiWr 4 0x01000000) := by decide

/-- Rule R124, vectors IO-A2, IO-U1, IO-U2 and IO-U3. -/
theorem test_decode_unused_indices :
    decode { DecodeMode.afterReset with selectedIndex := 0x02 } (.mmioRead 0xFEC00010 4) = .ok .unusedRd ∧
      decode { DecodeMode.afterReset with selectedIndex := 0x0F } (.mmioRead 0xFEC00010 4) = .ok .unusedRd ∧
      decode { DecodeMode.afterReset with selectedIndex := 0x40 } (.mmioRead 0xFEC00010 4) = .ok .unusedRd ∧
      decode { DecodeMode.afterReset with selectedIndex := 0xFF } (.mmioWrite 0xFEC00010 [0x34, 0x12, 0x00, 0x00]) = .ok (.unusedWr 0x1234) ∧
      decode { DecodeMode.afterReset with selectedIndex := 0x30, params := smallParams } (.mmioRead 0xFEC00010 4) =
        .ok .unusedRd := by decide

/-- Rule R66, vectors IO-O1 and IO-O2. -/
theorem test_decode_eoi_and_other_offsets :
    decode DecodeMode.afterReset (.mmioWrite 0xFEC00040 [0x30, 0xFF, 0xFF, 0xFF]) = .ok (.mmioEoiWr 0xFFFFFF30) ∧
      decode DecodeMode.afterReset (.mmioRead 0xFEC00040 4) = .ok (.mmioOtherRd 0x40) ∧
      decode { DecodeMode.afterReset with params := olderParams } (.mmioWrite 0xFEC00040 [0x30, 0x00, 0x00, 0x00]) =
        .ok (.mmioOtherWr 0x40 0x30) ∧
      decode DecodeMode.afterReset (.mmioRead 0xFEC00FFC 4) = .ok (.mmioOtherRd 0xFFC) := by decide

/-- Rule R72. -/
theorem test_decode_side_band :
    decode DecodeMode.afterReset (.picSetLine 11 .high 0x33) = .ok (.picSetline 11 .high 0x33) ∧
      decode DecodeMode.afterReset .picAck = .ok .picAck ∧
      decode DecodeMode.afterReset (.ioSetLine 3 .low 7 true) = .ok (.ioSetline 3 .low 7 true) ∧
      decode DecodeMode.afterReset (.ioSetEoi 0x30) = .ok (.ioSeteoi 0x30) ∧
      decode DecodeMode.afterReset (.ioSendMsi message 7) = .ok (.ioSendmsi message 7) ∧
      decode DecodeMode.afterReset .reset = .ok .reset := by decide

/-- Rules R38, R39, R43, R44, vector IO-O3. -/
theorem test_decode_rejects :
    decode DecodeMode.afterReset (.portWrite 0x22 [0x00]) = .error .portNotDecoded ∧
      decode DecodeMode.afterReset (.mmioRead 0xFEC01000 4) = .error .addressNotDecoded ∧
      decode DecodeMode.afterReset (.portRead 0x20 2) = .error .portAccessNotByte ∧
      decode DecodeMode.afterReset (.mmioRead 0xFEC00000 1) = .error .mmioAccessNotAlignedWord ∧
      decode DecodeMode.afterReset (.mmioRead 0xFEC00002 4) = .error .mmioAccessNotAlignedWord := by decide

theorem test_decodeTableWord :
    decodeTableWord 8 0x63 = some (.ocw2Seoi .master 3) ∧ decodeTableWord 16 11 = some (.picSetline 11 .low 0) ∧
      decodeTableWord 32 0 = none := by decide

/-! The PIC pair: lines, priority and acknowledge (95_test_vectors.md section 2.1). -/

/-- Vector PL1. -/
theorem test_picSetline_high :
    seen (.picSetline 1 .high 5) .reset
      (fun t => (t.pair.master.requestReg, t.pair.master.lastRequestReg, tagOf t.pair.master 1, t.pair.intOut, t.picOut)) = some (0x02, 0x02, 5, true, [.intrRaise]) := by decide

/-- Vector PL5. -/
theorem test_picSetline_flipFlop :
    seen (.picSetline 1 .flipFlop 5) (master (fun ch => { ch with serviceReg := 0x02, lastRequestReg := 0x02 }))
      (fun t => (t.pair.master.requestReg, t.pair.master.lastRequestReg, t.pair.intOut, t.picOut)) = some (0x02, 0x02, false, [.intrLower, .intrLower]) := by decide

/-- Vectors PP1 to PP7, and the slave of PP5 (rule R82). -/
theorem test_pic_priority :
    getPendingIrq .master { power with requestReg := 0x09, serviceReg := 0x01 } = none ∧
      getPendingIrq .master { power with requestReg := 0x09, serviceReg := 0x08 } = some 0 ∧
      getPendingIrq .master { power with requestReg := 0x02, maskReg := 0x01, serviceReg := 0x01 } = none ∧
      getPendingIrq .master
        { power with requestReg := 0x02, maskReg := 0x01, serviceReg := 0x01, specialMaskActive := true } = some 1 ∧
      getPendingIrq .master { power with requestReg := 0x04, serviceReg := 0x04, speciallyNestedMode := true } = some 2 ∧
      getPendingIrq .slave { power with requestReg := 0x04, serviceReg := 0x04, speciallyNestedMode := true } = none ∧
      getPendingIrq .master { power with priorityBase := 3, requestReg := 0x05 } = some 0 := by decide

/-- Scenario 3, line 6. -/
theorem test_picAck_cascade :
    seen (.picAck) cascaded
      (fun t => (t.picOut, t.pair.master.serviceReg, t.pair.slave.serviceReg, t.pair.master.requestReg, t.pair.slave.requestReg,
        tagOf t.pair.master 2)) = some ([.acknowledged 0x2B 0x33, .intrLower, .intrRaise], 0x04, 0x08, 0x00, 0x00, 0) := by decide

/-- Vector PA5: spurious on the slave, from a restored state. -/
theorem test_picAck_spurious :
    seen (.picAck) restoredPin2
      (fun t => (t.picOut, t.pair.master.serviceReg, t.pair.master.requestReg, t.pair.slave == restoredPin2.pair.slave)) = some ([.acknowledged 0x2F 0, .intrLower], 0x04, 0x00, true) := by decide

/-! The command byte (section 2.2). -/

/-- Vector PW1. -/
theorem test_icw1 :
    seen (.icw1 .master true false false false 0) (master (fun ch => { ch with maskReg := 0xFB, vectorBase := 0x08, elcr := 0x08, serviceReg := 0x01 }))
      (fun t => (t.pair.master.maskReg, t.pair.master.vectorBase, t.pair.master.serviceReg, t.pair.master.elcr,
        t.pair.master.initStep, t.pair.master.expectsFourthInitByte)) = some (0x00, 0x00, 0x00, 0x08, 1, true) := by decide

/-- Vectors PW2, RS2. -/
theorem test_icw1_keeps_tags_and_logs :
    seen (.icw1 .master true true false false 0) (master (fun ch => { ch with requestReg := 0x08, traceTag := power.traceTag.set 3 9 }))
      (fun t => (t.pair.master.requestReg, tagOf t.pair.master 3, t.picOut)) = some (0x00, 9, [.intrLower, .log .protocol]) := by decide

/-- Vector PW7. -/
theorem test_ocw2RotateAeoiClear :
    seen (.ocw2RotateAeoiClear .master 0) (master (fun ch => { ch with rotateOnAutoEoi := true }))
      (fun t => (t.pair.master.rotateOnAutoEoi)) = some false := by decide

/-- Vector PW13, on the slave. -/
theorem test_ocw2RotateAeoiSet :
    seen (.ocw2RotateAeoiSet .slave 0) .reset
      (fun t => (t.pair.slave.rotateOnAutoEoi, t.pair.master.rotateOnAutoEoi)) = some (true, false) := by decide

/-- Vector PW10. -/
theorem test_ocw2Nseoi :
    seen (.ocw2Nseoi .master 0) (master (fun ch => { ch with serviceReg := 0x05, priorityBase := 2 }))
      (fun t => t.pair.master.serviceReg) = some 0x01 := by decide

/-- Vector PA3. -/
theorem test_ocw2Nseoi_level_requests_again :
    seen (.ocw2Nseoi .master 0) (master (fun ch => { ch with serviceReg := 0x08, requestReg := 0x08, elcr := 0x08 }))
      (fun t => (t.pair.master.serviceReg, t.pair.intOut)) = some (0x00, true) := by decide

/-- Vector PW11. -/
theorem test_ocw2Nop :
    seen (.ocw2Nop .master 5) (master (fun ch => { ch with serviceReg := 0x05, priorityBase := 2 }))
      (fun t => (t.pair.master.serviceReg, t.pair.master.priorityBase)) = some (0x05, 2) := by decide

/-- Vector PW12. -/
theorem test_ocw2Seoi :
    seen (.ocw2Seoi .master 2) (master (fun ch => { ch with serviceReg := 0x05 }))
      (fun t => t.pair.master.serviceReg) = some 0x01 := by decide

/-- The example of rule R95. -/
theorem test_ocw2Seoi_not_in_service :
    seen (.ocw2Seoi .master 1) (master (fun ch => { ch with serviceReg := 0x05 }))
      (fun t => t.pair.master.serviceReg) = some 0x05 := by decide

/-- Vector PW14. -/
theorem test_ocw2Rnseoi :
    seen (.ocw2Rnseoi .master 0) (master (fun ch => { ch with serviceReg := 0x10 }))
      (fun t => (t.pair.master.serviceReg, t.pair.master.priorityBase)) = some (0x00, 5) := by decide

/-- Vector PW15. -/
theorem test_ocw2Rnseoi_nothing_in_service :
    seen (.ocw2Rnseoi .master 0) (master (fun ch => { ch with priorityBase := 3 }))
      (fun t => (t.pair.master.serviceReg, t.pair.master.priorityBase)) = some (0x00, 3) := by decide

/-- Vector PW16. -/
theorem test_ocw2Setprio :
    seen (.ocw2Setprio .master 3) (master (fun ch => { ch with serviceReg := 0x01 }))
      (fun t => (t.pair.master.priorityBase, t.pair.master.serviceReg)) = some (4, 0x01) := by decide

/-- Vector PW16. -/
theorem test_ocw2Setprio_wraps :
    seen (.ocw2Setprio .master 7) .reset
      (fun t => t.pair.master.priorityBase) = some 0 := by decide

/-- Vector PW17. -/
theorem test_ocw2Rseoi :
    seen (.ocw2Rseoi .master 5) .reset
      (fun t => (t.pair.master.serviceReg, t.pair.master.priorityBase)) = some (0x00, 6) := by decide

/-- The example of rule R99. -/
theorem test_ocw2Rseoi_in_service :
    seen (.ocw2Rseoi .master 3) (master (fun ch => { ch with serviceReg := 0x08 }))
      (fun t => (t.pair.master.serviceReg, t.pair.master.priorityBase)) = some (0x00, 4) := by decide

/-- Vector PW18. -/
theorem test_ocw3 :
    seen (.ocw3 .master true true false true true false) .reset
      (fun t => (t.pair.master.readRegisterSelect, t.pair.master.specialMaskActive, t.pair.master.pollModeActive)) = some (true, true, false) := by decide

/-- Vectors PW19, PW20; P = 0 cancels no poll (rule R100). -/
theorem test_ocw3_disabled :
    seen (.ocw3 .master false false false false true false) (master (fun ch => { ch with readRegisterSelect := true, specialMaskActive := true, pollModeActive := true }))
      (fun t => (t.pair.master.readRegisterSelect, t.pair.master.specialMaskActive, t.pair.master.pollModeActive)) = some (true, false, true) := by decide

/-! The data byte, the port reads and the ELCR (section 2.2). -/

/-- Vector PW21. -/
theorem test_ocw1 :
    seen (.ocw1 .master 0x00) (master (fun ch => { ch with requestReg := 0x01, maskReg := 0x01 }))
      (fun t => (t.pair.master.maskReg, t.pair.intOut)) = some (0x00, true) := by decide

/-- Vector PW4. -/
theorem test_icw2 :
    seen (.icw2 .master 0x0F) (master (fun ch => { ch with initStep := 1 }))
      (fun t => (t.pair.master.vectorBase, t.pair.master.initStep)) = some (0x08, 2) := by decide

/-- Vector PW5. -/
theorem test_icw3 :
    seen (.icw3 .master 0x04) (master (fun ch => { ch with initStep := 2 }))
      (fun t => (t.pair.master.initStep, t.pair.master.autoEoi)) = some (0, false) := by decide

/-- The example of rule R103. -/
theorem test_icw3_expects_icw4 :
    seen (.icw3 .master 0x04) (master (fun ch => { ch with initStep := 2, expectsFourthInitByte := true }))
      (fun t => t.pair.master.initStep) = some 3 := by decide

/-- Vector PW6. -/
theorem test_icw4 :
    seen (.icw4 .master false true false false true 0) (master (fun ch => { ch with initStep := 3 }))
      (fun t => (t.pair.master.speciallyNestedMode, t.pair.master.autoEoi, t.pair.master.initStep)) = some (true, true, 0) := by decide

/-- Vector PR1. -/
theorem test_rdIrrIsr :
    seen (.rdIrrIsr .master) (master (fun ch => { ch with requestReg := 0x11, serviceReg := 0x02 }))
      (fun t => t.picOut) = some [.portByte 0x11] := by decide

/-- Vector PR1, after the OCW3. -/
theorem test_rdIrrIsr_isr :
    seen (.rdIrrIsr .master) (master (fun ch => { ch with requestReg := 0x11, serviceReg := 0x02, readRegisterSelect := true }))
      (fun t => t.picOut) = some [.portByte 0x02] := by decide

/-- Program P4, line 7. -/
theorem test_rdPoll :
    seen (.rdPoll .master) (master (fun ch => { ch with pollModeActive := true, requestReg := 0x48, traceTag := power.traceTag.set 3 7 }))
      (fun t => (t.picOut, t.pair.master.serviceReg, t.pair.master.requestReg, tagOf t.pair.master 3, t.pair.master.pollModeActive)) = some ([.portByte 0x83, .intrLower], 0x08, 0x40, 0, false) := by decide

/-- Vector PR2, on the slave. -/
theorem test_rdPoll_no_winner :
    seen (.rdPoll .slave) (State.reset.setChan .slave { PicChannel.powerOn 0xDE with pollModeActive := true })
      (fun t => (t.picOut, t.pair.slave.pollModeActive, t.pair.slave.serviceReg)) = some ([.portByte 0x00, .intrLower], false, 0x00) := by decide

/-- Vector PR3. -/
theorem test_rdImr :
    seen (.rdImr .master) (master (fun ch => { ch with pollModeActive := true, maskReg := 0xFB }))
      (fun t => (t.picOut, t.pair.master.pollModeActive)) = some ([.portByte 0xFB], true) := by decide

/-- Vector PE1. -/
theorem test_elcrWr :
    seen (.elcrWr .slave 0xFF) .reset
      (fun t => (t.pair.slave.elcr, t.pair.master.elcr)) = some (0xDE, 0x00) := by decide

/-- Vector PE2 and the example of rule R109. -/
theorem test_elcrWr_keeps_the_request :
    seen (.elcrWr .master 0xFF) (master (fun ch => { ch with requestReg := 0x08 }))
      (fun t => (t.pair.master.elcr, t.pair.master.requestReg)) = some (0xF8, 0x08) := by decide

/-- The example of rule R110. -/
theorem test_elcrRd :
    seen (.elcrRd .master) (master (fun ch => { ch with elcr := 0xF8 }))
      (fun t => t.picOut) = some [.portByte 0xF8] := by decide

/-! The registers of the I/O APIC (section 2.3). -/

/-- Vector IO-X1. -/
theorem test_mmioIdxWr :
    seen (.mmioIdxWr 0x00000112) .reset
      (fun t => t.io.selectedIndex) = some 0x12 := by decide

/-- Vector IO-X1. -/
theorem test_mmioIdxRd :
    seen (.mmioIdxRd) { State.reset with io := { State.reset.io with selectedIndex := 0x12 } }
      (fun t => t.ioOut) = some [.mmioWord 0x00000012] := by decide

/-- Vector IO-I1. -/
theorem test_idWr :
    seen (.idWr 0xFFFFFFFF) .reset
      (fun t => t.io.apicId) = some 0xFF := by decide

/-- Vector IO-I2. -/
theorem test_idWr_four_bits :
    seen (.idWr 0xFFFFFFFF) older
      (fun t => t.io.apicId) = some 0x0F := by decide

/-- The example of rule R115. -/
theorem test_idRd :
    seen (.idRd) { State.reset with io := { State.reset.io with apicId := 0x05 } }
      (fun t => t.ioOut) = some [.mmioWord 0x05000000] := by decide

/-- Vector IO-V1. -/
theorem test_verRd :
    seen (.verRd) .reset
      (fun t => t.ioOut) = some [.mmioWord 0x00170020] := by decide

/-- Vector IO-V2. -/
theorem test_verRd_older :
    seen (.verRd) older
      (fun t => t.ioOut) = some [.mmioWord 0x00170011] := by decide

/-- Vector IO-V3 and the example of rule R120: read-only, no effect. -/
theorem test_verWr_and_arbWr :
    seen (.verWr 0xFFFFFFFF) .reset id = some .reset ∧ seen (.arbWr 0x0F000000) older id = some older := by decide

/-- Vector IO-A1. -/
theorem test_arbRd :
    seen (.arbRd) { older with io := { older.io with apicId := 0x03 } }
      (fun t => t.ioOut) = some [.mmioWord 0x03000000] := by decide

/-- Vector IO-RD1. -/
theorem test_rteLoRd :
    seen (.rteLoRd 0) .reset
      (fun t => t.ioOut) = some [.mmioWord 0x00010000] := by decide

/-- Bits outside `rteReadMask` read 0 (rule R121). -/
theorem test_rteLoRd_masked :
    seen (.rteLoRd 0) (entryAt 0 0xFFFFFFFFFFFFFFFF)
      (fun t => t.ioOut) = some [.mmioWord 0x0001FFFF] := by decide

/-- The high half of `rteReadMask` (rules R34, R121). -/
theorem test_rteHiRd :
    seen (.rteHiRd 0) (entryAt 0 0xFFFFFFFFFFFFFFFF)
      (fun t => t.ioOut) = some [.mmioWord 0xFFFF0000] := by decide

/-- Vector IO-W1. -/
theorem test_rteLoWr :
    seen (.rteLoWr 0 0xFFFFFFFF) .reset
      (fun t => (t.rte 0, t.ioOut)) = some (0x000000000001AFFF, []) := by decide

/-- The example of rule R122, with the answer `accept`. -/
theorem test_rteLoWr_delivers :
    seen (.rteLoWr 4 0x00008030) (pendingAt 4 0x0000000000010030 [.accept])
      (fun t => (t.rte 4, t.ioOut)) = some (0x000000000000C030, [.attempt { blank with vector := 0x30, triggerMode := true } .accept]) := by decide

/-- Vector IO-W3. -/
theorem test_rteHiWr :
    seen (.rteHiWr 0 0xFFFFFFFF) .reset
      (fun t => t.rte 0) = some 0xFFFF000000010000 := by decide

/-- Vector IO-W5. -/
theorem test_rteHiWr_delivers :
    seen (.rteHiWr 0 0xFFFFFFFF) (pendingAt 0 0x0000000000008030 [.accept])
      (fun t => (t.rte 0, t.ioOut.length)) = some (0xFFFF00000000C030, 1) := by decide

/-- Vectors IO-U1, IO-U2, IO-O1. -/
theorem test_unused_and_other_registers :
    seen .unusedRd .reset State.ioOut = some [.mmioWord 0xFFFFFFFF, .log .addressing] ∧
      seen (.unusedWr 0x1234) .reset State.ioOut = some [.log .addressing] ∧
      seen (.mmioOtherRd 0x20) .reset State.ioOut = some [.mmioWord 0xFFFFFFFF, .log .addressing] ∧
      seen (.mmioOtherWr 0x20 0x30) .reset State.ioOut = some [.log .addressing] := by decide

/-- Vector IO-E1. -/
theorem test_mmioEoiWr :
    seen (.mmioEoiWr 0xFFFFFF30) (entryAt 4 0x000000000000C030)
      (fun t => (t.rte 4, t.ioOut)) = some (0x0000000000008030, []) := by decide +kernel

/-! Delivery (section 2.4). -/

/-- Scenario 2 (program P2, line 6). -/
theorem test_ioSetline_level :
    seen (.ioSetline 4 .high 0x11 false) { entryAt 4 0x0100000000008030 with targetScript := [.accept] }
      (fun t => (t.rte 4, t.io.pendingLevelBitmap, t.ioTag 4, t.ioOut)) = some (0x010000000000C030, 0x000010, 0x11,
        [.attempt { blank with vector := 0x30, triggerMode := true, destination := 0x01, tag := 0x11 } .accept]) := by decide

/-- Vector ID4. -/
theorem test_ioSetline_flip_flop :
    seen (.ioSetline 3 .low 7 true) { entryAt 3 0x0000000000000040 with targetScript := [.accept] }
      (fun t => (t.io.pendingLevelBitmap, t.io.flipFlopBitmap, t.ioTag 3, t.ioOut)) = some (0x000000, 0x000008, 0, [.attempt { blank with vector := 0x40, tag := 7 } .accept]) := by decide

/-- Vector ID9. -/
theorem test_ioSeteoi_two_pins :
    seen (.ioSeteoi 0x50) twoLevels
      (fun t => (t.rte 1, t.rte 6, t.ioOut, t.hookCalls)) = some (0x000000000000C050, 0x000000000000C050,
        [.attempt { blank with vector := 0x50, triggerMode := true } .accept,
         .attempt { blank with vector := 0x50, triggerMode := true } .accept], 2) := by decide +kernel

/-- Vector ID11. -/
theorem test_ioSeteoi_masked :
    seen (.ioSeteoi 0x50) (pendingAt 2 0x000000000001C050 [.accept])
      (fun t => (t.rte 2, t.ioOut, t.pending 2)) = some (0x0000000000018050, [], true) := by decide +kernel

/-- Vector ID13, with the answer `discard`. -/
theorem test_ioSendmsi :
    seen (.ioSendmsi message 7) { State.reset with targetScript := [.discard] }
      (fun t => (t.ioOut, t.io == State.reset.io)) = some ([.attempt { blank with vector := 0x41, triggerMode := true, destination := 0x01, tag := 7 } .discard], true) := by decide

/-- Vector ID14: a discard by the hook reaches no target. -/
theorem test_hook_discard :
    ∀ d, Config.remapAnswer 0 d = none →
      (oracle.deliver d).2 = false ∧ (oracle.deliver d).1 = { oracle with hookCalls := 1 } := by
  intro d h
  have h' : oracle.remapped d = none := h
  constructor <;> simp [State.deliver, h']; rfl

/-- Vector RS1. -/
theorem test_reset_operation :
    seen (.reset) dirty
      (fun t => (t.pair.master == { power with elcr := 0x08 }, t.pair.intOut, t.picOut, t.io == State.reset.io, t.hookCalls)) = some (true, false, [.intrLower], true, 0) := by decide

/-! The step: fetching, restoring and refusing. -/

/-- Vector PW16, as a byte placed by `withFetchWord`. -/
theorem test_step_runs_the_next_access :
    (match step (State.reset.withFetchWord 8 0xC3) with
      | .next t => (t.pair.master.priorityBase, t.inputs)
      | _ => (0, [])) = (4, []) := by decide

/-- Rule R75, `TARGET discard`. -/
theorem test_step_scripts_the_target :
    step { State.reset with inputs := [.target .discard] } = .next { State.reset with targetScript := [.discard] } := rfl

/-! Witnesses: for every obligation with hypotheses, a state and operands that meet them, at the edges of their ranges.
-/

/-- The last pin of the table. -/
theorem witness_DecodingReadsWhatEncodingWrites :
    ∃ (i : Instr) (m : DecodeMode), m.params.wellFormed = true ∧ i.wellFormed m.params.record = true ∧
      i.selectedBy m = true := ⟨.rteHiWr 23 0xFFFFFFFF, { DecodeMode.afterReset with selectedIndex := 0x3F }, by decide⟩

theorem witness_EveryDecodedAccessIsTheEncodingOfItsOperation :
    ∃ (i : Instr) (m : DecodeMode) (t : Transaction), m.params.wellFormed = true ∧ decode m t = .ok i := ⟨.mmioOtherRd 0xFFC, DecodeMode.afterReset, .mmioRead 0xFEC00FFC 4, by decide⟩

theorem witness_StepRunsTheDecodedOperation :
    ∃ (s : State) (t : Transaction) (rest : List Input) (i : Instr), s.inputs = .operation t :: rest ∧
      decode s.decodeMode t = .ok i := ⟨State.reset.withNext .picAck, .picAck, [], .picAck, rfl, by decide⟩

theorem witness_StepWithNothingToApplyChangesNothing :
    State.reset.inputs = [] := rfl

/-- A width that is too large, an offset that is misaligned, a write of no byte, a wide port read, a re-entrant call. -/
theorem witness_StepRefusesWhatHasNoMeaning :
    State.reset.params.wellFormed = true ∧
      (State.reset.withNext (.mmioRead (0xFEC00000 + (0 : BitVec 12).setWidth 64) 8)).inputs =
        .operation (.mmioRead (State.reset.params.ioapicBase + (0 : BitVec 12).setWidth 64) 8) :: [] ∧
      ¬(8 = 4 ∧ (0 : BitVec 12).toNat % 4 = 0) ∧ ¬(4 = 4 ∧ (0xFFF : BitVec 12).toNat % 4 = 0) ∧
      ¬(([] : List Byte).length = 4 ∧ (0 : BitVec 12).toNat % 4 = 0) ∧
      (State.reset.withNext (.portRead 0x20 2)).inputs =
        .operation (.portRead (portOf State.reset.params (.command .master)) 2) :: [] ∧
      (State.reset.withNext (.portWrite 0x4D1 [])).inputs =
        .operation (.portWrite (portOf State.reset.params (.elcr .slave)) []) :: [] ∧
      ([] : List Byte).length ≠ 1 ∧ ({ State.reset with inputs := [.reentrant .picAck] } : State).inputs =
        .reentrant .picAck :: [] := by decide

/-- The write clause of `StepRefusesWhatHasNoMeaning`. -/
theorem witness_StepRefusesAMisalignedWrite :
    (State.reset.withNext (.mmioWrite (0xFEC00000 + (2 : BitVec 12).setWidth 64) [0, 0, 0, 0])).inputs =
        .operation (.mmioWrite (State.reset.params.ioapicBase + (2 : BitVec 12).setWidth 64) [0, 0, 0, 0]) :: [] ∧
      ¬([0, 0, 0, 0].length = 4 ∧ (2 : BitVec 12).toNat % 4 = 0) := by decide

/-- The first clause. -/
theorem witness_RestoreWritesTheImageBackUnchanged :
    ({ State.reset with inputs := [.restore cascaded.save] } : State).inputs = .restore cascaded.save :: [] ∧
      cascaded.save.pair.master.elcr &&& ~~~cascaded.save.pair.master.elcrMask = 0 ∧
      cascaded.save.pair.slave.elcr &&& ~~~cascaded.save.pair.slave.elcrMask = 0 ∧
      State.reset.admits cascaded.save = true := by decide

/-- The second clause: master pin 0 is never level. -/
theorem witness_RestoreRefusesABadElcr :
    (master fun ch => { ch with elcr := 0x01 }).save.pair.master.elcr &&&
        ~~~(master fun ch => { ch with elcr := 0x01 }).save.pair.master.elcrMask ≠ 0 := by decide

theorem witness_RestoreOfASaveGivesTheSavedRegisters :
    cascaded.inv = true ∧ ({ State.reset with inputs := [.restore cascaded.save] } : State).params = cascaded.params ∧
      State.reset.pair.master.elcrMask = cascaded.pair.master.elcrMask ∧
      State.reset.pair.slave.elcrMask = cascaded.pair.slave.elcrMask := by decide

theorem witness_EveryStepKeepsTheInvariant :
    (cascaded.withNext .picAck).inv = true ∧ ∃ t, step (cascaded.withNext .picAck) = .next t := ⟨by decide, _, rfl⟩

theorem witness_NoStepChangesAParameter :
    ∃ t, step (State.reset.withNext .reset) = .next t := ⟨_, rfl⟩

theorem witness_EveryOperationKeepsTheOutputSettled :
    cascaded.settled ∧ ∃ t, exec .picAck cascaded = .next t := ⟨by decide, _, rfl⟩

/-- Two states that differ on the other side only. -/
theorem witness_NeitherControllerReadsTheOther :
    (entryAt 4 0x8030).pair = State.reset.pair ∧ (entryAt 4 0x8030).io ≠ State.reset.io ∧
      (∃ t, exec .picAck (entryAt 4 0x8030) = .next t) ∧ (∃ t, exec .picAck State.reset = .next t) ∧
      cascaded.params = State.reset.params ∧ cascaded.io = State.reset.io ∧ cascaded.hookCalls = State.reset.hookCalls ∧
      cascaded.targetScript = State.reset.targetScript ∧ cascaded.pair ≠ State.reset.pair := ⟨by decide, by decide, ⟨_, rfl⟩, ⟨_, rfl⟩, by decide⟩

/-- A bit set by an acknowledge, and bit 7 cleared by a specific EOI. -/
theorem witness_ServiceBitsHaveTheirWriters :
    hasBit (cascaded.chan .slave).serviceReg 3 = false ∧
      (seen .picAck cascaded fun t => hasBit (t.chan .slave).serviceReg 3) = some true ∧
      (seen (.ocw2Seoi .master 7) (master fun ch => { ch with serviceReg := 0x80 })
        fun t => hasBit (t.chan .master).serviceReg 7) = some false := by decide

theorem witness_NewRequestsComeOnlyFromTheLines :
    hasBit (State.reset.chan .slave).requestReg 7 = false ∧ ¬((ChannelId.slave) = .master ∧ (7 : Pin) = 2) ∧
      (seen (.picSetline 15 .high 1) .reset fun t => hasBit (t.chan .slave).requestReg 7) = some true := by decide

theorem witness_ChannelSetupHasItsWriters :
    (∀ ic4 sngl adi ltim hi, Instr.ocw1 .master 1 ≠ .icw1 .master ic4 sngl adi ltim hi) ∧
      (seen (.ocw1 .master 1) .reset fun t => (t.chan .master).maskReg) = some 1 ∧
      (seen (.icw2 .slave 0xFF) .reset fun t => (t.chan .slave).vectorBase) = some 0xF8 ∧
      (seen (.elcrWr .slave 0xFF) .reset fun t => (t.chan .slave).elcr) = some 0xDE := ⟨by simp, by decide⟩

theorem witness_RemoteIrrIsClearedOnlyByAMatchingEoi :
    (entryAt 23 0xC0FF).inv = true ∧ rteRemoteIrr ((entryAt 23 0xC0FF).rte 23) = true ∧
      (seen (.ioSeteoi 0xFF) (entryAt 23 0xC0FF) fun t => rteRemoteIrr (t.rte 23)) = some false := by decide +kernel

theorem witness_DeliveryStatusNeverChanges :
    (entryAt 4 0x8030).inv = true ∧ (∃ t, exec (.rteLoWr 4 0xFFFFFFFF) (entryAt 4 0x8030) = .next t) ∧
      Instr.rteLoWr 4 0xFFFFFFFF ≠ .reset := ⟨by decide, ⟨_, rfl⟩, by decide⟩

theorem witness_NoAttemptWhileEveryEntryIsMasked :
    State.reset.inv = true ∧ (∀ p < State.reset.record.pinCount, rteMasked (State.reset.rte p) = true) ∧
      (∀ f tag, Instr.ioSetline 23 .high 1 true ≠ .ioSendmsi f tag) ∧
      (∀ pin value, Instr.ioSetline 23 .high 1 true ≠ .rteLoWr pin value) ∧
      ∃ t, exec (.ioSetline 23 .high 1 true) .reset = .next t := ⟨by decide, by decide, by simp, by simp, _, rfl⟩

/-- The vectors of section 1.1, "Priority rotation". -/
theorem witness_PriorityIsTheLeastRotationOffset :
    highestIn 5 0x44 6 ∧ getPriority 5 0x44 = 1 ∧ highestIn 0 0x80 7 ∧ getPriority 0 0x80 = 7 ∧
      highestIn 7 0x81 7 ∧ getPriority 7 0x81 = 0 := by
  simp only [highestIn]; decide

/-- Vector PP2. -/
theorem witness_WinnerBeatsEveryCountedPinInService :
    getPendingIrq .master { power with requestReg := 0x09, serviceReg := 0x08 } = some 0 := by decide

theorem witness_VectorIsBaseAndPin :
    ({ power with vectorBase := 0xF8 } : PicChannel).vectorBase &&& 0x07 = 0 ∧
      vectorOf { power with vectorBase := 0xF8 } 7 = 0xFF := by decide

theorem witness_NonSpecificEoiClearsTheHighestPinInService :
    (State.reset.chan .master).serviceReg = 0 ∧ highestIn 7 0x81 7 ∧
      ((master fun ch => { ch with serviceReg := 0x81, priorityBase := 7 }).chan .master).serviceReg = 0x81 := by
  simp only [highestIn]; decide

theorem witness_NopCommandChangesNothing :
    cascaded.settled ∧ State.reset.settled := by decide

theorem witness_InitSequenceIsAStateMachine :
    (State.reset.chan .slave).initStep = 0 ∧
      ((master fun ch => { ch with initStep := 1 }).chan .master).initStep = 1 ∧
      ((master fun ch => { ch with initStep := 2 }).chan .master).initStep = 2 ∧
      ((master fun ch => { ch with initStep := 3 }).chan .master).initStep = 3 := by decide

theorem witness_PortReadsReturnTheirRegister :
    (State.reset.chan .master).pollModeActive = false ∧
      ((master fun ch => { ch with pollModeActive := true }).chan .master).pollModeActive = true := by decide

/-- The four cases, and a settled state in which master pin 2 wins. -/
theorem witness_AcknowledgeReturnsTheWinnersVector :
    State.reset.winner .master = none ∧
      (master fun ch => { ch with requestReg := 0x80 }).winner .master = some 7 ∧ (7 : Pin) ≠ 2 ∧
      restoredPin2.winner .master = some 2 ∧ restoredPin2.winner .slave = none ∧
      cascaded.settled ∧ cascaded.winner .master = some 2 ∧ cascaded.winner .slave = some 3 := by decide

theorem witness_PollAcknowledgesOnItsChannel :
    State.reset.winner .slave = none ∧ cascaded.winner .slave = some 3 ∧ cascaded.winner .master = some 2 := by decide

/-- Vector PL2, and one pair of tags for each clause. -/
theorem witness_TagMergeKeepsTheFirstAndMarksACollision :
    tagMerge 5 0 = 5 ∧ tagMerge 5 5 = 5 ∧ tagMerge 0 5 = 5 ∧ tagMerge 5 6 = 0x80000005 := by decide

theorem witness_LineCallsDriveTheirPin :
    16 ≤ (16 : BitVec 16).toNat ∧ (15 : BitVec 16).toNat < 16 ∧ (0 : BitVec 16).toNat < 16 := by decide

theorem witness_FlipFlopIsALowThenAHigh :
    (15 : BitVec 16).toNat < 16 ∧ (15 : BitVec 16).toNat ≠ 2 ∧ (2 : BitVec 16).toNat < 16 := by decide

theorem witness_EntryWritesMergeAndMayDeliver :
    (entryAt 23 0x8030).pending 23 = false ∧ (pendingAt 23 0x8030 []).pending 23 = true := by decide

/-- The first clause with a refused and with an accepted attempt, and the second clause. -/
theorem witness_WritesNeverReachTheReadOnlyBits :
    (pendingAt 0 0x8030 [.discard]).inv = true ∧ (pendingAt 0 0x8030 [.accept]).inv = true ∧
      (seen (.rteHiWr 0 0xFFFFFFFF) (pendingAt 0 0x8030 [.discard]) fun t => rteRemoteIrr (t.rte 0)) = some false ∧
      (seen (.rteLoWr 0 0x8031) (pendingAt 0 0x8030 [.accept]) fun t => rteRemoteIrr (t.rte 0)) = some true ∧
      (pendingAt 0 0x8030 [.accept]).record.rteWriteMask.getLsbD 16 = true ∧
      (seen (.rteLoWr 0 0xFFFFFFFF) (pendingAt 0 0x8030 [.accept]) fun t => rteRemoteIrr (t.rte 0)) = some false := by decide

theorem witness_DeliveryConsultsTheHookAndTheTarget :
    State.reset.params.remap = .identity := rfl

/-- A masked entry, a suppressed one, and a level and an edge entry that make an attempt. -/
theorem witness_DeliveryDecisionFollowsTheEntry :
    rteMasked (State.reset.rte 0) = true ∧
      (rteMasked ((entryAt 4 0xC030).rte 4) = false ∧ rteLevel ((entryAt 4 0xC030).rte 4) = true ∧
        rteRemoteIrr ((entryAt 4 0xC030).rte 4) = true) ∧
      rteMasked ((entryAt 4 0x8030).rte 4) = false ∧ rteLevel ((entryAt 4 0x8030).rte 4) = true ∧
      rteRemoteIrr ((entryAt 4 0x8030).rte 4) = false ∧ rteLevel ((entryAt 4 0x0030).rte 4) = false := by decide

theorem witness_IoLineCallsDriveTheirPin :
    State.reset.record.pinCount ≤ (24 : Byte).toNat ∧ (23 : Byte).toNat < State.reset.record.pinCount ∧
      State.reset.pending (23 : Byte).toNat = false ∧ (pendingAt 23 0x8030 []).pending (23 : Byte).toNat = true ∧
      rteLevel ((pendingAt 23 0x8030 []).rte (23 : Byte).toNat) = true ∧
      rteLevel ((pendingAt 23 0x0030 []).rte (23 : Byte).toNat) = false := by decide

/-- A pin attempted again, a pin that does not match, and a match that is not attempted. -/
theorem witness_EoiClearsEveryMatchingEntry :
    twoLevels.inv = true ∧ 6 < twoLevels.record.pinCount ∧ twoLevels.reattempted 0x50 6 = true ∧
      23 < twoLevels.record.pinCount ∧ rteLevel (twoLevels.rte 23) = false ∧ (entryAt 23 0xC050).inv = true ∧
      rteLevel ((entryAt 23 0xC050).rte 23) = true ∧ rteVector ((entryAt 23 0xC050).rte 23) = 0x50 ∧
      (entryAt 23 0xC050).reattempted 0x50 23 = false := by decide

/-- Rules R130, R134: the first attempt is refused, so its entry stays clear; the second is accepted. -/
theorem witness_EoiClearsEveryMatchingEntry_refused :
    ({ twoLevels with targetScript := [.discard, .accept] } : State).inv = true ∧
      seen (.ioSeteoi 0x50) { twoLevels with targetScript := [.discard, .accept] } (fun t => (t.rte 1, t.rte 6)) =
        some (0x0000000000008050, 0x000000000000C050) := by decide +kernel

theorem witness_EoiAttemptsThePendingPinsInOrder :
    twoLevels.inv = true ∧ twoLevels.params.remap = .identity ∧ ∃ t, exec (.ioSeteoi 0x50) twoLevels = .next t := ⟨by decide, rfl, _, rfl⟩

/-- The first clause. -/
theorem witness_LevelInterruptIsDeliveredOncePerEoi_high :
    let s : State := { entryAt 23 0x8030 with targetScript := [.accept] }
    s.inv = true ∧ (23 : Byte).toNat < s.record.pinCount ∧ rteMasked (s.rte 23) = false ∧ rteLevel (s.rte 23) = true ∧
      s.params.remap = .identity ∧ s.pending 23 = false ∧ rteRemoteIrr (s.rte 23) = false ∧ s.answer = .accept := by decide

/-- The second clause. -/
theorem witness_LevelInterruptIsDeliveredOncePerEoi_suppressed :
    let s : State := entryAt 23 0xC030
    s.inv = true ∧ (23 : Byte).toNat < s.record.pinCount ∧ rteMasked (s.rte 23) = false ∧ rteLevel (s.rte 23) = true ∧
      s.params.remap = .identity ∧ rteRemoteIrr (s.rte 23) = true := by decide

/-- The third clause. -/
theorem witness_LevelInterruptIsDeliveredOncePerEoi_eoi :
    let s : State := pendingAt 23 0xC030 [.accept]
    s.inv = true ∧ (23 : Byte).toNat < s.record.pinCount ∧ rteMasked (s.rte 23) = false ∧ rteLevel (s.rte 23) = true ∧
      s.params.remap = .identity ∧ s.pending 23 = true ∧ s.answer = .accept ∧
      ∀ q < s.record.pinCount, q ≠ 23 → s.pending q = true → rteLevel (s.rte q) = true →
        rteVector (s.rte q) ≠ rteVector (s.rte 23) := by decide

theorem witness_UnmaskingAPendingEntryAttemptsIt :
    let s : State := pendingAt 23 0x8030 []
    s.inv = true ∧ 23 < s.record.pinCount ∧ s.pending 23 = true ∧ s.record.rteWriteMask.getLsbD 16 = true ∧
      (0x00018030 : Word).getLsbD 16 = true ∧ (0x00008030 : Word).getLsbD 16 = false ∧
      rteRemoteIrr (s.rte 23) = false := by decide

end Sys2Proof.Tests
end

section
/-! The two controllers do not read each other (rule R37), as a relation between two runs that every shared operation of one
controller keeps: `PicAgree` for the PIC pair, `IoAgree` for the I/O APIC with the world's answers. -/

namespace Sys2Proof.Machine

/-- Two states with the same PIC pair that have sent out the same events since their histories were `a` and `b`. -/
structure PicAgree (a b : List PicEvent) (s u : State) : Prop where
  pair : s.pair = u.pair
  sent : ∃ sent, s.picOut = sent ++ a ∧ u.picOut = sent ++ b

namespace PicAgree
variable {a b : List PicEvent} {s u s' u' : State}

theorem start (h : s.pair = u.pair) : PicAgree s.picOut u.picOut s u := ⟨h, [], rfl, rfl⟩

theorem chan (h : PicAgree a b s u) (c : ChannelId) : s.chan c = u.chan c := by cases c <;> simp [h.pair]

theorem winner (h : PicAgree a b s u) (c : ChannelId) : s.winner c = u.winner c := by
  rw [State.winner, State.winner, h.chan]

/-- Operations that leave the pair and its output alone keep the agreement. -/
theorem of_ioFrame (h : PicAgree a b s u) (hs : s.ioFrame s') (hu : u.ioFrame u') : PicAgree a b s' u' := by
  obtain ⟨_, hsp, hso, _⟩ := hs
  obtain ⟨_, hup, huo, _⟩ := hu
  exact ⟨by rw [hsp, hup, h.pair], by rw [hso, huo]; exact h.sent⟩

theorem emitPic (h : PicAgree a b s u) (e : PicEvent) : PicAgree a b (s.emitPic e) (u.emitPic e) := by
  obtain ⟨sent, hs, hu⟩ := h.sent
  exact ⟨h.pair, e :: sent, by simp [hs], by simp [hu]⟩

theorem logPicIf (h : PicAgree a b s u) (cond : Bool) (k : LogKind) :
    PicAgree a b (s.logPicIf cond k) (u.logPicIf cond k) := by
  cases cond
  · exact h
  · exact h.emitPic _

theorem setPair (h : PicAgree a b s u) {x y : PicPair} (hxy : x = y) :
    PicAgree a b { s with pair := x } { u with pair := y } := ⟨hxy, h.sent⟩

theorem setChan (h : PicAgree a b s u) (c : ChannelId) {x y : PicChannel} (hxy : x = y) :
    PicAgree a b (s.setChan c x) (u.setChan c y) := by
  subst hxy
  cases c <;> exact h.setPair (by rw [h.pair])

theorem updateDelivery (h : PicAgree a b s u) : PicAgree a b s.updateDelivery u.updateDelivery := by
  rw [updateDelivery_eq, updateDelivery_eq, h.pair, h.winner]
  exact (h.emitPic _).setPair rfl

theorem writeChan (h : PicAgree a b s u) (c : ChannelId) {x y : PicChannel} (hxy : x = y) :
    PicAgree a b (s.writeChan c x) (u.writeChan c y) := (h.setChan c hxy).updateDelivery

theorem pollRead (h : PicAgree a b s u) (c : ChannelId) : PicAgree a b (s.pollRead c) (u.pollRead c) := by
  simp only [State.pollRead, h.chan c]
  exact (h.writeChan c rfl).emitPic _

theorem driveLine (h : PicAgree a b s u) (c : ChannelId) (p : Pin) (high : Bool) (tag : Tag) :
    PicAgree a b (s.driveLine c p high tag) (u.driveLine c p high tag) := h.writeChan c (by rw [h.chan])

/-- The bookkeeping of an acknowledge, and the vector and the tag that it answers. -/
theorem acknowledgeWinner (h : PicAgree a b s u) :
    PicAgree a b s.acknowledgeWinner.1 u.acknowledgeWinner.1 ∧ s.acknowledgeWinner.2 = u.acknowledgeWinner.2 := by
  simp only [State.acknowledgeWinner, h.winner, h.pair]
  cases u.winner .master with
  | none => exact ⟨h, rfl⟩
  | some m =>
    have hm : PicAgree a b (s.setChan .master (intack u.pair.master m)) (u.setChan .master (intack u.pair.master m)) :=
      h.setChan .master rfl
    simp only [hm.winner, hm.pair]
    split
    · cases (u.setChan .master (intack u.pair.master m)).winner .slave with
      | none => exact ⟨hm, rfl⟩
      | some w => exact ⟨hm.setChan .slave rfl, rfl⟩
    · exact ⟨hm.setChan .master rfl, rfl⟩

theorem acknowledge (h : PicAgree a b s u) : PicAgree a b s.acknowledge u.acknowledge := by
  obtain ⟨hw, hans⟩ := h.acknowledgeWinner
  simp only [State.acknowledge, hans]
  exact hw.updateDelivery.emitPic _

theorem deviceReset (h : PicAgree a b s u) : PicAgree a b s.deviceReset u.deviceReset := by
  have hr : PicAgree a b s.resetPair u.resetPair := (h.setPair (by rw [h.pair])).updateDelivery
  exact ⟨hr.pair, hr.sent⟩

/-- An operation of the pair does the same to two pairs that are the same. -/
theorem of_exec_onPic (h : PicAgree a b s u) (i : Instr) (hi : i.onPic = true) (hs : exec i s = .next s')
    (hu : exec i u = .next u') : PicAgree a b s' u' := by
  cases i with
  | icw1 c ic4 sngl adi ltim a7_5 =>
    rw [next_inj hs, next_inj hu]
    exact (((h.setChan c (by rw [h.chan])).logPicIf _ _).logPicIf _ _).updateDelivery
  | rdIrrIsr c =>
    simp only [exec, execRdIrrIsr, h.chan] at hs hu
    split at hs <;> rename_i hpoll <;> simp only [hpoll] at hu <;> rw [next_inj hs, next_inj hu]
    · exact h.pollRead c
    · exact h.emitPic _
  | rdPoll c => rw [next_inj hs, next_inj hu]; exact h.pollRead c
  | rdImr c | elcrRd c => rw [next_inj hs, next_inj hu, h.chan]; exact h.emitPic _
  | picAck => rw [next_inj hs, next_inj hu]; exact h.acknowledge
  | picSetline line level tag =>
    simp only [exec, execPicSetline] at hs hu
    split at hs <;> rename_i hline <;> simp only [hline] at hu
    · rw [next_inj hs, next_inj hu]; exact h.emitPic _
    · cases level <;> rw [next_inj hs, next_inj hu]
      · exact h.driveLine ..
      · exact h.driveLine ..
      · exact (h.driveLine ..).driveLine ..
  | ocw2RotateAeoiClear | ocw2Nseoi | ocw2Nop | ocw2Seoi | ocw2RotateAeoiSet | ocw2Rnseoi |
      ocw2Setprio | ocw2Rseoi | ocw3 | ocw1 | icw2 | icw3 | icw4 | elcrWr =>
    rw [next_inj hs, next_inj hu]; exact h.writeChan _ (by rw [h.chan])
  | _ => cases hi

theorem of_exec (h : PicAgree a b s u) (i : Instr) (hs : exec i s = .next s') (hu : exec i u = .next u') :
    PicAgree a b s' u' := by
  by_cases hr : i = .reset
  · subst hr; rw [next_inj hs, next_inj hu]; exact h.deviceReset
  · cases hi : i.onPic
    · exact h.of_ioFrame (ioFrame_of_exec i s s' hs hi hr) (ioFrame_of_exec i u u' hu hi hr)
    · exact h.of_exec_onPic i hi hs hu

end PicAgree

/-- Two states with the same I/O APIC, the same parameters and the same answers of the world ahead that have sent out the
same events since their histories were `a` and `b`. -/
structure IoAgree (a b : List IoEvent) (s u : State) : Prop where
  params : s.params = u.params
  io : s.io = u.io
  hookCalls : s.hookCalls = u.hookCalls
  targetScript : s.targetScript = u.targetScript
  sent : ∃ sent, s.ioOut = sent ++ a ∧ u.ioOut = sent ++ b

namespace IoAgree
variable {a b : List IoEvent} {s u s' u' : State}

theorem record (h : IoAgree a b s u) : s.record = u.record := by rw [State.record, State.record, h.params]
theorem rte (h : IoAgree a b s u) (p : Nat) : s.rte p = u.rte p := by rw [State.rte, State.rte, h.io]
theorem ioTag (h : IoAgree a b s u) (p : Nat) : s.ioTag p = u.ioTag p := by rw [State.ioTag, State.ioTag, h.io]
theorem pending (h : IoAgree a b s u) (p : Nat) : s.pending p = u.pending p := by
  rw [State.pending, State.pending, h.io]

theorem remapped (h : IoAgree a b s u) (d : Descriptor) : s.remapped d = u.remapped d := by
  rw [State.remapped, State.remapped, h.params, h.hookCalls]

theorem answer (h : IoAgree a b s u) : s.answer = u.answer := by
  rw [State.answer, State.answer, h.targetScript, h.hookCalls]

/-- Operations of the pair keep the agreement. -/
theorem of_picFrame (h : IoAgree a b s u) (hs : s.picFrame s') (hu : u.picFrame u') : IoAgree a b s' u' := by
  obtain ⟨hs1, hs2, hs3, hs4, hs5, _⟩ := hs
  obtain ⟨hu1, hu2, hu3, hu4, hu5, _⟩ := hu
  exact ⟨by rw [hs1, hu1, h.params], by rw [hs2, hu2, h.io], by rw [hs4, hu4, h.hookCalls],
    by rw [hs5, hu5, h.targetScript], by rw [hs3, hu3]; exact h.sent⟩

theorem ite {c : Prop} [Decidable c] {x y x' y' : State} (hx : IoAgree a b x x') (hy : IoAgree a b y y') :
    IoAgree a b (if c then x else y) (if c then x' else y') := by
  split
  · exact hx
  · exact hy

theorem setIo (h : IoAgree a b s u) {x y : IoApic} (hxy : x = y) :
    IoAgree a b { s with io := x } { u with io := y } := ⟨h.params, hxy, h.hookCalls, h.targetScript, h.sent⟩

theorem mapIo (h : IoAgree a b s u) (f : IoApic → IoApic) :
    IoAgree a b { s with io := f s.io } { u with io := f u.io } := h.setIo (congrArg f h.io)

theorem setRte (h : IoAgree a b s u) (p : Nat) {e e' : Entry} (he : e = e') :
    IoAgree a b (s.setRte p e) (u.setRte p e') := h.setIo (by rw [h.io, he])

theorem setIoTag (h : IoAgree a b s u) (p : Nat) {t t' : Tag} (ht : t = t') :
    IoAgree a b (s.setIoTag p t) (u.setIoTag p t') := h.setIo (by rw [h.io, ht])

theorem setPending (h : IoAgree a b s u) (p : Nat) : IoAgree a b (s.setPending p) (u.setPending p) :=
  h.setIo (by rw [h.io])

theorem clearPending (h : IoAgree a b s u) (p : Nat) : IoAgree a b (s.clearPending p) (u.clearPending p) :=
  h.setIo (by rw [h.io])

theorem setFlipFlop (h : IoAgree a b s u) (p : Nat) : IoAgree a b (s.setFlipFlop p) (u.setFlipFlop p) :=
  h.setIo (by rw [h.io])

theorem clearFlipFlop (h : IoAgree a b s u) (p : Nat) : IoAgree a b (s.clearFlipFlop p) (u.clearFlipFlop p) :=
  h.setIo (by rw [h.io])

theorem countSuppressed (h : IoAgree a b s u) : IoAgree a b s.countSuppressed u.countSuppressed :=
  h.setIo (by rw [h.io])

theorem countRedundant (h : IoAgree a b s u) : IoAgree a b s.countRedundant u.countRedundant :=
  h.setIo (by rw [h.io])

theorem emitIo (h : IoAgree a b s u) {e e' : IoEvent} (he : e = e') : IoAgree a b (s.emitIo e) (u.emitIo e') := by
  subst he
  obtain ⟨sent, hs, hu⟩ := h.sent
  exact ⟨h.params, h.io, h.hookCalls, h.targetScript, e :: sent, by simp [hs], by simp [hu]⟩

theorem returnWord (h : IoAgree a b s u) {v w : Word} (hv : v = w) :
    IoAgree a b (s.returnWord v) (u.returnWord w) := h.emitIo (by rw [hv])

/-- One call of the delivery path: the hook and the target answer both runs alike. -/
theorem deliver (h : IoAgree a b s u) (d : Descriptor) : IoAgree a b (s.deliver d).1 (u.deliver d).1 := by
  obtain ⟨sent, hs, hu⟩ := h.sent
  rw [(deliver_spec s d).1, (deliver_spec u d).1, h.remapped, h.answer]
  exact ⟨h.params, h.io, by rw [h.hookCalls], by rw [h.targetScript],
    ((u.remapped d).map fun r => IoEvent.attempt r u.answer).toList ++ sent, by simp [hs], by simp [hu]⟩

theorem deliver_took (h : IoAgree a b s u) (d : Descriptor) : (s.deliver d).2 = (u.deliver d).2 := by
  rw [(deliver_spec s d).2, (deliver_spec u d).2, h.remapped, h.answer]

theorem accepted (h : IoAgree a b s u) (p : Nat) : IoAgree a b (s.accepted p) (u.accepted p) := by
  rw [accepted_eq, accepted_eq]; exact h.mapIo (acceptedIo · p)

theorem signalPending (h : IoAgree a b s u) (p : Nat) : IoAgree a b (s.signalPending p) (u.signalPending p) := by
  rw [signalPending_cases, signalPending_cases, h.rte, h.ioTag, h.deliver_took]
  exact h.ite (h.countSuppressed.ite (((h.deliver _).accepted p).ite (h.deliver _)))

theorem writeRteHalf (h : IoAgree a b s u) (p : Nat) (high : Bool) (value : Word) :
    IoAgree a b (s.writeRteHalf p high value) (u.writeRteHalf p high value) := by
  simp only [State.writeRteHalf, h.pending, h.record, h.rte]
  have hw := h.setRte p (rfl : mergeHalf u.record.rteWriteMask (u.rte p) high value = _)
  exact (hw.signalPending p).ite hw

theorem eoiPin (h : IoAgree a b s u) (vector : Byte) (p : Nat) :
    IoAgree a b (s.eoiPin vector p) (u.eoiPin vector p) := by
  simp only [State.eoiPin, h.pending, h.rte]
  have hw := h.setRte p (rfl : clearRemoteIrr (u.rte p) = _)
  exact ((hw.signalPending p).ite hw).ite h

theorem eoiVisited (h : IoAgree a b s u) (vector : Byte) (n : Nat) :
    IoAgree a b (s.eoiVisited vector n) (u.eoiVisited vector n) := by
  induction n with
  | zero => exact h
  | succ n ih => rw [eoiVisited_succ, eoiVisited_succ]; exact ih.eoiPin vector n

theorem setEoi (h : IoAgree a b s u) (vector : Byte) : IoAgree a b (s.setEoi vector) (u.setEoi vector) := by
  rw [← eoiVisited_all, ← eoiVisited_all, h.record]; exact h.eoiVisited ..

theorem assertIoPin (h : IoAgree a b s u) (p : Nat) : IoAgree a b (s.assertIoPin p) (u.assertIoPin p) := by
  simp only [State.assertIoPin, h.pending, h.rte]
  have hc := h.clearFlipFlop p
  exact ((hc.countRedundant.signalPending p).ite hc.countRedundant).ite ((hc.setPending p).signalPending p)

theorem flipFlopIoPin (h : IoAgree a b s u) (p : Nat) : IoAgree a b (s.flipFlopIoPin p) (u.flipFlopIoPin p) :=
  ((h.setFlipFlop p).setPending p).signalPending p

theorem deviceReset (h : IoAgree a b s u) : IoAgree a b s.deviceReset u.deviceReset := by
  have hr : IoAgree a b s.resetPair u.resetPair :=
    h.of_picFrame (picFrame_updateDelivery _) (picFrame_updateDelivery _)
  exact hr.setIo (by rw [h.params])

/-- An operation of the I/O APIC does the same to two I/O APICs that are the same, under the same answers. -/
theorem of_exec_offPic (h : IoAgree a b s u) (i : Instr) (hi : i.onPic = false) (hs : exec i s = .next s')
    (hu : exec i u = .next u') : IoAgree a b s' u' := by
  cases i with
  | ioSetline pin level tag ff =>
    simp only [exec, execIoSetline, h.record] at hs hu
    split at hs <;> rename_i hpin <;> simp only [hpin] at hu
    · rw [next_inj hs, next_inj hu]; exact h.emitIo rfl
    · have hm := h.setIoTag pin.toNat (congrArg (tagMerge · tag) (h.ioTag pin.toNat))
      cases ff with
      | true => rw [next_inj hs, next_inj hu]; exact hm.flipFlopIoPin _
      | false =>
        cases level <;> rw [next_inj hs, next_inj hu]
        · exact (h.clearPending _).setIoTag _ rfl
        · exact hm.assertIoPin _
  | mmioIdxRd | idRd | arbRd => rw [next_inj hs, next_inj hu]; exact h.returnWord (by rw [h.io])
  | verRd => rw [next_inj hs, next_inj hu]; exact h.returnWord (by rw [h.record])
  | rteLoRd | rteHiRd => rw [next_inj hs, next_inj hu]; exact h.returnWord (by rw [h.rte, h.record])
  | mmioIdxWr => rw [next_inj hs, next_inj hu]; exact h.setIo (by rw [h.io])
  | idWr => rw [next_inj hs, next_inj hu]; exact h.setIo (by rw [h.io, h.record])
  | verWr | arbWr => rw [next_inj hs, next_inj hu]; exact h
  | rteLoWr | rteHiWr => rw [next_inj hs, next_inj hu]; exact h.writeRteHalf ..
  | unusedRd | mmioOtherRd => rw [next_inj hs, next_inj hu]; exact (h.emitIo rfl).returnWord rfl
  | unusedWr | mmioOtherWr => rw [next_inj hs, next_inj hu]; exact h.emitIo rfl
  | mmioEoiWr | ioSeteoi => rw [next_inj hs, next_inj hu]; exact h.setEoi _
  | ioSendmsi => rw [next_inj hs, next_inj hu]; exact h.deliver _
  | reset => rw [next_inj hs, next_inj hu]; exact h.deviceReset
  | _ => cases hi

theorem of_exec (h : IoAgree a b s u) (i : Instr) (hs : exec i s = .next s') (hu : exec i u = .next u') :
    IoAgree a b s' u' := by
  cases hi : i.onPic
  · exact h.of_exec_offPic i hi hs hu
  · exact h.of_picFrame (picFrame_of_exec i s s' hs hi) (picFrame_of_exec i u u' hu hi)

end IoAgree

/-- Settles O14: every operation keeps `PicAgree` and `IoAgree`, each from histories that start alike. -/
theorem neitherControllerReadsTheOther : Obligations.NeitherControllerReadsTheOther := by
  refine ⟨fun i s u s' u' hp hs hu => ?_, fun i s u s' u' hparams hio hhook htgt hs hu => ?_⟩
  · obtain ⟨hpair, hsent⟩ := (PicAgree.start hp).of_exec i hs hu
    exact ⟨hpair, hsent⟩
  · have h : IoAgree s.ioOut u.ioOut s u := ⟨hparams, hio, hhook, htgt, [], rfl, rfl⟩
    obtain ⟨_, hio', hhook', htgt', hsent⟩ := h.of_exec i hs hu
    exact ⟨hio', hhook', htgt', hsent⟩

end Sys2Proof.Machine
end

section
/-! The writers of `serviceReg` (rule R18): what each shared operation of the pair does to the register, and from that what an
operation can do to it (`ServiceChange`, `serviceChange_of_exec`). -/

namespace Sys2Proof.Machine

theorem setChan_chan (s : State) (c d : ChannelId) (ch : PicChannel) :
    (s.setChan d ch).chan c = if d = c then ch else s.chan c := by
  cases c <;> cases d <;> rfl

theorem chan_of_pair {s t : State} (h : t.pair = s.pair) (c : ChannelId) : t.chan c = s.chan c := by
  cases c <;> simp [h]

theorem logPicIf_pair (s : State) (cond : Bool) (k : LogKind) : (s.logPicIf cond k).pair = s.pair := by
  cases cond <;> rfl

/-- The cascade step and the output leave `serviceReg` alone. -/
@[simp] theorem updateDelivery_serviceReg (s : State) (c : ChannelId) :
    (s.updateDelivery.chan c).serviceReg = (s.chan c).serviceReg := by
  rw [updateDelivery_eq]
  cases c
  · obtain ⟨_, hsvc, _⟩ := mem_sameButPin2_fields (sameButPin2_drivePin2 s.pair.master s.pair.slave (s.winner .slave))
    exact hsvc
  · rfl

theorem writeChan_serviceReg (s : State) (c d : ChannelId) (ch : PicChannel) :
    ((s.writeChan d ch).chan c).serviceReg = if d = c then ch.serviceReg else (s.chan c).serviceReg := by
  rw [State.writeChan, updateDelivery_serviceReg, setChan_chan, apply_ite PicChannel.serviceReg]

theorem writeChan_serviceReg_kept (s : State) (c d : ChannelId) (ch : PicChannel)
    (h : ch.serviceReg = (s.chan d).serviceReg) : ((s.writeChan d ch).chan c).serviceReg = (s.chan c).serviceReg := by
  rw [writeChan_serviceReg]
  split
  · next hd => rw [← hd, h]
  · rfl

theorem driveLine_serviceReg (s : State) (c d : ChannelId) (p : Pin) (high : Bool) (tag : Tag) :
    ((s.driveLine d p high tag).chan c).serviceReg = (s.chan c).serviceReg :=
  writeChan_serviceReg_kept s c d _ (by cases high <;> rfl)

theorem intack_serviceReg (ch : PicChannel) (w : Pin) :
    (intack ch w).serviceReg = if ch.autoEoi = true then ch.serviceReg else setBit ch.serviceReg w := by rw [intack_eq]

/-- Rules R93, R97: the service bits after an EOI by priority. -/
theorem hasBit_nonSpecificEoi {ch : PicChannel} {p : Pin} (h : hasBit (nonSpecificEoi ch).serviceReg p = true) :
    hasBit ch.serviceReg p = true := by
  simp only [nonSpecificEoi] at h
  split at h
  · exact h
  · exact (by simpa using h : hasBit ch.serviceReg p = true ∧ _).1

theorem rotateNonSpecificEoi_serviceReg (ch : PicChannel) :
    (rotateNonSpecificEoi ch).serviceReg = (nonSpecificEoi ch).serviceReg := by
  simp only [rotateNonSpecificEoi, nonSpecificEoi]; split <;> rfl

theorem hasBit_of_clearBit {r : Byte} {p q : Pin} (h : hasBit (clearBit r q) p = true) : hasBit r p = true := by
  simp only [hasBit_clearBit, Bool.and_eq_true] at h; exact h.1

/-- The service bits of channel `c` from `s` to `t`: left alone, or those of an acknowledge of the channel's winner
(rule R86). -/
def State.serviceAcked (s : State) (c : ChannelId) (t : State) : Prop :=
  (t.chan c).serviceReg = (s.chan c).serviceReg ∨
    ∃ w, s.winner c = some w ∧ (t.chan c).serviceReg = (intack (s.chan c) w).serviceReg

/-- Rule R107: on its own channel, a poll. -/
theorem pollRead_serviceAcked (s : State) (c : ChannelId) : s.serviceAcked c (s.pollRead c) := by
  have hw : getPendingIrq c { s.chan c with pollModeActive := false } = s.winner c :=
    getPendingIrq_congr _ _ _ rfl rfl rfl rfl rfl rfl
  have ht : ((s.pollRead c).chan c).serviceReg =
      (pollAck { s.chan c with pollModeActive := false } (s.winner c)).serviceReg := by
    rw [State.pollRead, hw, chan_of_pair (returnByte_pair _ _), writeChan_serviceReg, if_pos rfl]
  cases h : s.winner c with
  | none => left; rw [ht, h]; rfl
  | some w => right; exact ⟨w, h, by rw [ht, h, pollAck, setTag_serviceReg, intack_serviceReg, intack_serviceReg]⟩

theorem pollRead_serviceReg_other (s : State) (c d : ChannelId) (hd : d ≠ c) :
    ((s.pollRead d).chan c).serviceReg = (s.chan c).serviceReg := by
  rw [State.pollRead, chan_of_pair (returnByte_pair _ _), writeChan_serviceReg, if_neg hd]

/-- Rule R87: an acknowledge, on either channel. -/
theorem acknowledge_serviceAcked (s : State) (c : ChannelId) : s.serviceAcked c s.acknowledge := by
  have ht : (s.acknowledge.chan c).serviceReg = (s.acknowledgeWinner.1.chan c).serviceReg := by
    rw [State.acknowledge, chan_of_pair (emitPic_pair _ _), updateDelivery_serviceReg]
  rw [State.serviceAcked, ht, State.acknowledgeWinner]
  cases hm : s.winner .master with
  | none => exact .inl rfl
  | some m =>
    have hsl : (s.setChan .master (intack s.pair.master m)).winner .slave = s.winner .slave := rfl
    simp only [hsl]
    by_cases h2 : m = 2
    · rw [if_pos h2]
      cases hw : s.winner .slave <;> cases c
      · exact .inr ⟨m, hm, rfl⟩
      · exact .inl rfl
      · exact .inr ⟨m, hm, rfl⟩
      · exact .inr ⟨_, hw, rfl⟩
    · rw [if_neg h2]
      cases c
      · exact .inr ⟨m, hm, rfl⟩
      · exact .inl rfl

/-- All that an operation can do to the service bits of channel `c`. -/
inductive ServiceChange (c : ChannelId) (i : Instr) (s t : State) : Prop where
  | kept (same : (t.chan c).serviceReg = (s.chan c).serviceReg)
  | cleared (writer : clearsService c i = true)
      (fewer : ∀ p, hasBit (t.chan c).serviceReg p = true → hasBit (s.chan c).serviceReg p = true)
  | acked (writer : setsService c (s.chan c).pollModeActive i = true) (aeoi : (s.chan c).autoEoi = false) (w : Pin)
      (win : s.winner c = some w) (more : (t.chan c).serviceReg = setBit (s.chan c).serviceReg w)

namespace ServiceChange
variable {c : ChannelId} {i : Instr} {s t : State}

/-- With `autoEoi` the acknowledge leaves the register alone (rule R86). -/
theorem of_serviceAcked (hi : setsService c (s.chan c).pollModeActive i = true) (h : s.serviceAcked c t) :
    ServiceChange c i s t := by
  rcases h with h | ⟨w, hw, h⟩
  · exact .kept h
  · rw [intack_serviceReg] at h
    cases ha : (s.chan c).autoEoi
    · exact .acked hi ha w hw (by rw [h, ha]; rfl)
    · exact .kept (by rw [h, ha]; rfl)

/-- Channel `d` gets a register `r` that can only have fewer service bits, by an operation that may clear them. -/
theorem of_fewer {d : ChannelId} {r : Byte} (hi : d = c → clearsService c i = true)
    (h : ∀ p, hasBit r p = true → hasBit (s.chan d).serviceReg p = true)
    (ht : (t.chan c).serviceReg = if d = c then r else (s.chan c).serviceReg) : ServiceChange c i s t := by
  by_cases hd : d = c
  · subst hd
    exact .cleared (hi rfl) (by rw [ht, if_pos rfl]; exact h)
  · exact .kept (by rw [ht, if_neg hd])

theorem of_writeChan_fewer {d : ChannelId} {ch : PicChannel} (hi : d = c → clearsService c i = true)
    (h : ∀ p, hasBit ch.serviceReg p = true → hasBit (s.chan d).serviceReg p = true) :
    ServiceChange c i s (s.writeChan d ch) := .of_fewer hi h (writeChan_serviceReg ..)

end ServiceChange

theorem serviceChange_of_exec (i : Instr) (s t : State) (c : ChannelId) (h : exec i s = .next t) :
    ServiceChange c i s t := by
  cases i with
  | icw1 d ic4 sngl adi ltim a7_5 =>
    have ht : (t.chan c).serviceReg = if d = c then 0 else (s.chan c).serviceReg := by
      rw [next_inj h, updateDelivery_serviceReg, chan_of_pair (logPicIf_pair _ _ _), chan_of_pair (logPicIf_pair _ _ _),
        setChan_chan, apply_ite PicChannel.serviceReg]
      rfl
    exact .of_fewer (fun hd => beq_iff_eq.2 hd) (fun p hp => absurd hp (by simp [hasBit])) ht
  | ocw2Nseoi d =>
    rw [next_inj h]
    exact .of_writeChan_fewer (fun hd => beq_iff_eq.2 hd) fun _ hp => hasBit_nonSpecificEoi hp
  | ocw2Rnseoi d =>
    rw [next_inj h]
    exact .of_writeChan_fewer (fun hd => beq_iff_eq.2 hd) fun _ hp =>
      hasBit_nonSpecificEoi (rotateNonSpecificEoi_serviceReg _ ▸ hp)
  | ocw2Seoi d pin | ocw2Rseoi d pin =>
    rw [next_inj h]
    exact .of_writeChan_fewer (fun hd => beq_iff_eq.2 hd) fun _ hp => hasBit_of_clearBit hp
  | ocw2RotateAeoiClear | ocw2Nop | ocw2RotateAeoiSet | ocw2Setprio | ocw3 | ocw1 | icw2 | icw3 | icw4 | elcrWr =>
    rw [next_inj h]; exact .kept (writeChan_serviceReg_kept s c _ _ rfl)
  | rdPoll d =>
    rw [next_inj h]
    by_cases hd : d = c
    · subst hd; exact .of_serviceAcked (beq_self_eq_true d) (pollRead_serviceAcked s d)
    · exact .kept (pollRead_serviceReg_other s c d hd)
  | rdIrrIsr d =>
    simp only [exec, execRdIrrIsr] at h
    split at h <;> rw [next_inj h]
    · next hpoll =>
      by_cases hd : d = c
      · subst hd; exact .of_serviceAcked (by simp [setsService, hpoll]) (pollRead_serviceAcked s d)
      · exact .kept (pollRead_serviceReg_other s c d hd)
    · exact .kept (by rw [chan_of_pair (returnByte_pair _ _)])
  | picAck => rw [next_inj h]; exact .of_serviceAcked rfl (acknowledge_serviceAcked s c)
  | rdImr | elcrRd => rw [next_inj h]; exact .kept (by rw [chan_of_pair (returnByte_pair _ _)])
  | picSetline line level tag =>
    simp only [exec, execPicSetline] at h
    split at h
    · rw [next_inj h]; exact .kept (by rw [chan_of_pair (emitPic_pair _ _)])
    · cases level <;> rw [next_inj h] <;> exact .kept (by simp only [driveLine_serviceReg])
  | reset =>
    refine .cleared rfl fun p hp => absurd hp ?_
    have ht : (t.chan c).serviceReg = 0 := by
      rw [next_inj h]
      exact (updateDelivery_serviceReg _ c).trans (by cases c <;> rfl)
    simp [ht, hasBit]
  | _ =>
    obtain ⟨_, hpair, _⟩ := ioFrame_of_exec _ s t h rfl (by simp)
    exact .kept (by rw [chan_of_pair hpair])

/-- Settles O15, from the three things an operation can do to the service bits. -/
theorem serviceBitsHaveTheirWriters : Obligations.ServiceBitsHaveTheirWriters := by
  intro i s t c p h
  cases serviceChange_of_exec i s t c h with
  | kept same => rw [same]; exact ⟨fun h0 h1 => by simp [h0] at h1, fun h1 h0 => by simp [h0] at h1⟩
  | cleared writer fewer => exact ⟨fun h0 h1 => by simp [fewer p h1] at h0, fun _ _ => writer⟩
  | acked writer aeoi w win more =>
    rw [more, hasBit_setBit]
    refine ⟨fun h0 h1 => ⟨aeoi, writer, ?_⟩, fun h1 h0 => by simp [h1] at h0⟩
    have hpw : p = w := by simpa [h0] using h1
    rw [hpw]; exact win

end Sys2Proof.Machine
end

section
/-! Priority, the winner and the acknowledge bookkeeping of one channel (rules R81, R82, R86): the rules as they are written,
from the laws of `getPriority`, `getPendingIrq` and `intack`. -/

namespace Sys2Proof.Machine

/-- Settles O22: a set that is not empty has a highest-priority pin, and its offset is the priority of the set. -/
theorem priorityIsTheLeastRotationOffset : Obligations.PriorityIsTheLeastRotationOffset := by
  intro base m
  refine ⟨(getPriority_eq_eight_iff base m).2, fun hm => ?_, getPriority_of_highestIn base m⟩
  obtain ⟨w, hw⟩ := exists_highestIn base m hm
  exact ⟨w, hw, getPriority_of_highestIn base m w hw⟩

/-- Settles O23: the service set that the rule writes with its masks is `countedService`. -/
theorem winnerBeatsEveryCountedPinInService : Obligations.WinnerBeatsEveryCountedPinInService := by
  intro c ch w unmasked counted
  have hcounted : countedService c ch = counted := rfl
  have heligible : eligible ch = ch.requestReg &&& ~~~ch.maskReg := rfl
  rw [getPendingIrq_eq_some_iff, hcounted, heligible]

/-- Settles O37: `setBit` and `clearBit` are, by definition, the rule's masks `1 << w`. -/
theorem acknowledgeBookkeepingOfAWinner : Obligations.AcknowledgeBookkeepingOfAWinner := intack_eq

end Sys2Proof.Machine
end

section
/-! The port operations that put one channel in a new state (rules R95, R98, R99, R101 to R104), and the port reads that only
return a byte (rules R106, R108, R110). -/

namespace Sys2Proof.Machine

/-- Rule R90: the operations that are one channel write. The channel `ch'` of the rule is the one that the model writes. -/
theorem exists_next_chanBecame {i : Instr} {s : State} {c : ChannelId} {ch ch' : PicChannel}
    (hexec : exec i s = .next (s.writeChan c ch)) (hch : ch = ch') :
    ∃ t, exec i s = .next t ∧ s.chanBecame c ch' [] [] t :=
  ⟨_, hexec, hch ▸ chanBecame_writeChan s c ch⟩

/-- Rule R102: the mask `0xF8` keeps the five high bits, so the three low bits of the vector base are 0 (rule R20). -/
theorem and_f8_eq_extractLsb'_append (v : Byte) : v &&& 0xF8 = v.extractLsb' 3 5 ++ 0#3 := by
  revert v; decide

/-- Rules R106 to R108, R110: a read changes nothing but what has been sent out. -/
theorem returnByte_eq (s : State) (v : Byte) : s.returnByte v = { s with picOut := .portByte v :: s.picOut } := rfl

/-- Rule R106, first line: an armed poll decides what a port+0 read is. -/
theorem exec_rdIrrIsr (c : ChannelId) (s : State) :
    exec (.rdIrrIsr c) s =
      if (s.chan c).pollModeActive = true then exec (.rdPoll c) s
      else .next (s.returnByte (selectedRegister (s.chan c))) := rfl

/-- Settles O30: none of the three writes asks whether the pin is in service, and `clearBit` is, by definition, the rule's
mask `~(1 << L)`. -/
theorem specificCommandsActOnTheirPin : Obligations.SpecificCommandsActOnTheirPin := by
  intro c pin s
  have hclear : clearBit (s.chan c).serviceReg pin = (s.chan c).serviceReg &&& ~~~(1#8 <<< pin.toNat) := rfl
  refine ⟨exists_next_chanBecame rfl ?seoi, exists_next_chanBecame rfl rfl, exists_next_chanBecame rfl ?rseoi⟩
  case seoi => rw [hclear]
  case rseoi => rw [hclear]

/-- Settles O32. -/
theorem maskWriteReplacesTheMask : Obligations.MaskWriteReplacesTheMask := fun _ _ _ =>
  exists_next_chanBecame rfl rfl

/-- Settles O33: ICW2 stores the five high bits of its byte, and ICW3 branches on what ICW1 announced. -/
theorem initBytesSetTheirFields : Obligations.InitBytesSetTheirFields := by
  intro c s
  refine ⟨fun v => exists_next_chanBecame rfl ?icw2, fun v => exists_next_chanBecame rfl ?icw3,
    fun upm aeoi ms buf sfnm hi => exists_next_chanBecame rfl rfl⟩
  case icw2 => rw [and_f8_eq_extractLsb'_append]
  case icw3 => rw [Bool.cond_eq_ite]

/-- Settles O36: a port+0 read by whether a poll is armed; the other two reads have one case each. -/
theorem portReadsReturnTheirRegister : Obligations.PortReadsReturnTheirRegister := by
  intro c s
  refine ⟨fun hidle => ?_, fun harmed => ?_, ?_, ?_⟩
  · rw [exec_rdIrrIsr, if_neg (by simp [hidle]), returnByte_eq, selectedRegister]
  · rw [exec_rdIrrIsr, if_pos harmed]
  · exact congrArg Host.Outcome.next (returnByte_eq s (s.chan c).maskReg)
  · exact congrArg Host.Outcome.next (returnByte_eq s (s.chan c).elcr)

end Sys2Proof.Machine
end

section
/-! The registers of the I/O APIC that are not redirection entries (rules R111, R112, R115 to R120), and the accesses that
name no register (rules R124, R125, R127). -/

namespace Sys2Proof

/-- Rule R67: the indices that no branch of the register table takes. The table of entries starts at 0x10 and `lastIndex`
is never below 0x0F, so an index above `lastIndex` is none of the three small registers, whatever `pinCount` is. -/
theorem indirectReg_eq_unused_iff (v : VariantRecord) (i : Byte) :
    indirectReg v i = .unused ↔
      (i = 0x02 ∧ v.hasArbReg = false) ∨ (0x03 ≤ i.toNat ∧ i.toNat ≤ 0x0F) ∨ v.lastIndex < i.toNat := by
  have hlast : 0x0F ≤ v.lastIndex := by rw [VariantRecord.lastIndex]; omega
  have heq (k : Byte) : i = k ↔ i.toNat = k.toNat := BitVec.toNat_inj.symm
  simp only [indirectReg, heq, BitVec.ofNat_eq_ofNat, BitVec.toNat_ofNat]
  split_ifs with hid hver harb hentry heven
  · exact iff_of_false nofun (by omega)
  · exact iff_of_false nofun (by omega)
  · exact iff_of_false nofun (by simp [harb]; omega)
  · exact iff_of_false nofun (by omega)
  · exact iff_of_false nofun (by omega)
  · exact iff_of_true rfl (by grind)

/-- Rule R113: of the six registers that an index can select, only `unused` reads as `UNUSED_RD`. -/
theorem decodeDataRead_eq_unusedRd_iff (v : VariantRecord) (i : Byte) :
    decodeDataRead v i = .unusedRd ↔ indirectReg v i = .unused := by
  rw [decodeDataRead]
  cases indirectReg v i <;> simp

/-- Rule R114: of the six registers that an index can select, only `unused` is written as `UNUSED_WR`. -/
theorem decodeDataWrite_eq_unusedWr_iff (v : VariantRecord) (i : Byte) (value : Word) :
    decodeDataWrite v i value = .unusedWr value ↔ indirectReg v i = .unused := by
  rw [decodeDataWrite]
  cases indirectReg v i <;> simp

/-- Rule R113: a read of the data register is never an access to another offset. -/
theorem decodeDataRead_ne_mmioOtherRd (v : VariantRecord) (i : Byte) (off : BitVec 12) :
    decodeDataRead v i ≠ .mmioOtherRd off := by
  rw [decodeDataRead]
  cases indirectReg v i <;> simp

/-- Rule R114: a write of the data register is never an access to another offset. -/
theorem decodeDataWrite_ne_mmioOtherWr (v : VariantRecord) (i : Byte) (off : BitVec 12) (value : Word) :
    decodeDataWrite v i value ≠ .mmioOtherWr off value := by
  rw [decodeDataWrite]
  cases indirectReg v i <;> simp

/-- Rule R66, the read column of the table of offsets. -/
theorem decodeMmioRead_eq_mmioOtherRd_iff (m : DecodeMode) (off : BitVec 12) :
    decodeMmioRead m off = .mmioOtherRd off ↔ off ≠ 0x00 ∧ off ≠ 0x10 := by
  rw [decodeMmioRead]
  split_ifs with hidx hdata
  · simp [hidx]
  · simp [hdata, decodeDataRead_ne_mmioOtherRd]
  · exact iff_of_true rfl ⟨hidx, hdata⟩

theorem eoiOffset_eq_true_iff (v : VariantRecord) (off : BitVec 12) :
    eoiOffset v off = true ↔ off = 0x40 ∧ v.hasEoiReg = true := by
  simp [eoiOffset]

/-- Rule R66, the write column of the table of offsets. -/
theorem decodeMmioWrite_eq_mmioOtherWr_iff (m : DecodeMode) (off : BitVec 12) (value : Word) :
    decodeMmioWrite m off value = .mmioOtherWr off value ↔
      off ≠ 0x00 ∧ off ≠ 0x10 ∧ ¬(off = 0x40 ∧ m.params.record.hasEoiReg = true) := by
  rw [decodeMmioWrite, ← eoiOffset_eq_true_iff]
  split_ifs with hidx hdata heoi
  · simp [hidx]
  · simp [hdata, decodeDataWrite_ne_mmioOtherWr]
  · simp [heoi]
  · exact iff_of_true rfl ⟨hidx, hdata, heoi⟩

namespace Machine

/-- Rules R112, R115, R117, R119: a read changes nothing but what has been sent out. -/
theorem returnWord_eq (s : State) (w : Word) : s.returnWord w = { s with ioOut := .mmioWord w :: s.ioOut } := rfl

/-- Decision D19 (rules R115, R119): the identification value stands in the top byte. -/
theorem setWidth_shiftLeft_24_eq_append (id : Byte) : (id.setWidth 32 <<< 24 : Word) = id ++ 0#24 := by
  simpa using (BitVec.setWidth_append_eq_shiftLeft_setWidth_or (b := id) (b' := 0#24) (w'' := 32)).symm

/-- Decision D19 (rule R117): the greatest pin number stands in bits 23:16 and the version in bits 7:0, for a pin number
that fits its byte. -/
theorem versionWord_eq_append (n : Nat) (hn : n < 2 ^ 8) (version : Byte) :
    (BitVec.ofNat 32 n <<< 16 ||| version.setWidth 32 : Word) = 0#8 ++ BitVec.ofNat 8 n ++ 0#8 ++ version := by
  have h := BitVec.setWidth_append_append_append_eq_shiftLeft_setWidth_or (w'''' := 32) (b := 0#8) (b' := BitVec.ofNat 8 n)
    (b'' := 0#8) (b''' := version)
  have hn : (BitVec.ofNat 8 n).setWidth 32 = BitVec.ofNat 32 n := BitVec.setWidth_ofNat_of_le_of_lt (by decide) hn
  simpa [hn] using h.symm

/-- Rule R34: on every variant the greatest pin number fits the byte that the version register has for it. -/
theorem record_pinCount_sub_one_lt (s : State) : s.record.pinCount - 1 < 2 ^ 8 := by
  rw [State.record, Params.record]
  cases s.params.variant <;> simp [IoApicVariant.record, VariantRecord.ich9, VariantRecord.i82093aa]

/-- Rule R112. -/
theorem exec_mmioIdxRd (s : State) : exec .mmioIdxRd s = .next (s.returnWord (s.io.selectedIndex.setWidth 32)) := rfl

/-- Rule R115. -/
theorem exec_idRd (s : State) : exec .idRd s = .next (s.returnWord (s.io.apicId.setWidth 32 <<< 24)) := rfl

/-- Rule R117. -/
theorem exec_verRd (s : State) : exec .verRd s =
    .next (s.returnWord (BitVec.ofNat 32 (s.record.pinCount - 1) <<< 16 ||| s.record.versionByte.setWidth 32)) := rfl

/-- Rule R119. -/
theorem exec_arbRd (s : State) : exec .arbRd s = .next (s.returnWord (s.io.apicId.setWidth 32 <<< 24)) := rfl

/-- Settles O44: which indices and offsets name no register is the decoder's part; the four operations themselves are the
logged reads and writes of rules R124, R125 and R127 by definition. -/
theorem unnamedRegistersReadAllOnesAndDropWrites : Obligations.UnnamedRegistersReadAllOnesAndDropWrites := by
  intro s value i off noRegister
  have hunused : indirectReg s.record i = .unused ↔ noRegister := indirectReg_eq_unused_iff s.record i
  exact ⟨(decodeDataRead_eq_unusedRd_iff _ _).trans hunused, (decodeDataWrite_eq_unusedWr_iff _ _ _).trans hunused,
    decodeMmioRead_eq_mmioOtherRd_iff _ _, decodeMmioWrite_eq_mmioOtherWr_iff _ _ _, rfl, rfl, rfl, rfl⟩

/-- Settles O43: the model writes its words with shifts, the statement with fields side by side. The version register's
layout needs a `pinCount - 1` of one byte, which every variant has (rule R34). -/
theorem smallRegistersReadAndWrite : Obligations.SmallRegistersReadAndWrite := by
  intro s value
  refine ⟨?idxWr, ?idxRd, rfl, ?idRd, rfl, ?verRd, rfl, ?arbRd⟩
  case idxWr => rw [BitVec.setWidth_eq_extractLsb' (by decide)]; rfl
  case idxRd => rw [exec_mmioIdxRd, BitVec.setWidth_eq_append (by decide), returnWord_eq]; rfl
  case idRd => rw [exec_idRd, setWidth_shiftLeft_24_eq_append, returnWord_eq]
  case verRd => rw [exec_verRd, versionWord_eq_append _ (record_pinCount_sub_one_lt s) _, returnWord_eq]
  case arbRd => rw [exec_arbRd, setWidth_shiftLeft_24_eq_append, returnWord_eq]

end Machine
end Sys2Proof
end

section
/-! The delivery decision for one pin of the I/O APIC (rule R131), in its three cases. -/

namespace Sys2Proof.Machine

/-- Rules R129, R130: a call of the delivery path makes the attempt that its descriptor asks for. -/
theorem attempted_deliver (s : State) (d : Descriptor) : s.attempted d (s.deliver d).2 (s.deliver d).1 := by
  obtain ⟨hstate, htook⟩ := deliver_spec s d
  rw [hstate, htook]
  refine ⟨rfl, ?_⟩
  cases s.remapped d with
  | none => exact ⟨rfl, rfl, rfl⟩
  | some r => exact ⟨Bool.true_and _, rfl, rfl⟩

/-- Rules R129, R130: an attempt says nothing about the registers after it, so the bookkeeping of rule R131 may follow. -/
theorem attempted_with_io {s t : State} {d : Descriptor} {took : Bool} (h : s.attempted d took t) (io : IoApic) :
    s.attempted d took { t with io := io } := h

theorem signalPending_of_masked {s : State} {p : Nat} (hmasked : rteMasked (s.rte p) = true) :
    s.signalPending p = s := by
  rw [signalPending_cases, if_pos hmasked]

theorem signalPending_of_suppressed {s : State} {p : Nat} (hunmasked : rteMasked (s.rte p) = false)
    (hlevel : rteLevel (s.rte p) = true) (hirr : rteRemoteIrr (s.rte p) = true) :
    s.signalPending p = s.countSuppressed := by
  rw [signalPending_cases, if_neg (by simp [hunmasked]), if_pos ⟨hlevel, hirr⟩]

/-- Rule R131, the remaining case: one call of the delivery path, then the bookkeeping if the target accepted. -/
theorem signalPending_of_attempting {s : State} {p : Nat} (hunmasked : rteMasked (s.rte p) = false)
    (harmed : rteLevel (s.rte p) = true → rteRemoteIrr (s.rte p) = false) :
    s.signalPending p = { (s.deliver (descriptorOf (s.rte p) (s.ioTag p))).1 with
      io := if (s.deliver (descriptorOf (s.rte p) (s.ioTag p))).2 then acceptedIo s.io p else s.io } := by
  have hnotSuppressed : ¬(rteLevel (s.rte p) = true ∧ rteRemoteIrr (s.rte p) = true) := fun ⟨hlevel, hirr⟩ =>
    Bool.false_ne_true ((harmed hlevel).symm.trans hirr)
  have hio := deliver_io s (descriptorOf (s.rte p) (s.ioTag p))
  rw [signalPending_cases, if_neg (by simp [hunmasked]), if_neg hnotSuppressed]
  split_ifs
  · rw [accepted_eq, hio]
  · rw [← hio]

/-- Settles O49: one lemma per case of the rule. -/
theorem deliveryDecisionFollowsTheEntry : Obligations.DeliveryDecisionFollowsTheEntry := by
  intro s p
  refine ⟨signalPending_of_masked, signalPending_of_suppressed, fun hunmasked harmed => ?attempting⟩
  case attempting =>
    refine ⟨(s.deliver (descriptorOf (s.rte p) (s.ioTag p))).2, ?_, ioFrame_signalPending s p, ?_⟩
    · rw [signalPending_of_attempting hunmasked harmed]
      exact attempted_with_io (attempted_deliver s _) _
    · rw [signalPending_of_attempting hunmasked harmed]

end Sys2Proof.Machine
end

section
/-! Totality (rule R138): every operation answers a next state. Three operations ask something of the state or of their
operands first, and have one next state per answer; the others are a next state as they stand. -/

namespace Sys2Proof.Machine

/-- Rule R106: a port+0 read answers, be a poll armed or not. -/
theorem exists_next_exec_rdIrrIsr (c : ChannelId) (s : State) : ∃ t, exec (.rdIrrIsr c) s = .next t := by
  rw [exec_rdIrrIsr]
  by_cases harmed : (s.chan c).pollModeActive = true
  · rw [if_pos harmed]; exact ⟨s.pollRead c, rfl⟩
  · rw [if_neg harmed]; exact ⟨_, rfl⟩

/-- Rule R77: a PIC line call answers, for a line above 15 and for every level of a line that has a pin. -/
theorem exists_next_exec_picSetline (line : BitVec 16) (level : PicLevel) (tag : Tag) (s : State) :
    ∃ t, exec (.picSetline line level tag) s = .next t := by
  by_cases habove : 16 ≤ line.toNat
  · exact ⟨_, if_pos habove⟩
  · cases level with
    | low | high | flipFlop => exact ⟨_, if_neg habove⟩

/-- Rules R132, R133: an I/O APIC line call answers, for a pin outside the table and for every level of a pin inside it. -/
theorem exists_next_exec_ioSetline (pin : Byte) (level : IoLevel) (tag : Tag) (isFlipFlop : Bool) (s : State) :
    ∃ t, exec (.ioSetline pin level tag isFlipFlop) s = .next t := by
  by_cases houtside : s.record.pinCount ≤ pin.toNat
  · exact ⟨_, if_pos houtside⟩
  · cases isFlipFlop with
    | true => exact ⟨_, if_neg houtside⟩
    | false =>
      cases level with
      | low | high => exact ⟨_, if_neg houtside⟩

/-- Rule R138: no arm of `exec` refuses or faults. -/
theorem exists_next_exec (i : Instr) (s : State) : ∃ t, exec i s = .next t := by
  cases i with
  | rdIrrIsr c => exact exists_next_exec_rdIrrIsr c s
  | picSetline line level tag => exact exists_next_exec_picSetline line level tag s
  | ioSetline pin level tag isFlipFlop => exact exists_next_exec_ioSetline pin level tag isFlipFlop s
  | _ => exact ⟨_, rfl⟩

/-- Settles O7: totality is the content; that no step faults is part of the type, since `Fault` has no constructor. -/
theorem everyOperationIsTotalAndNoStepFaults : Obligations.EveryOperationIsTotalAndNoStepFaults :=
  ⟨exists_next_exec, fun _ fault => nomatch fault⟩

end Sys2Proof.Machine
end

section
/-! Decoding and encoding are inverse to each other (rules R56 to R74): every operation is read back from its access, and
every access that decodes is the access of its operation, register by register of the tables. -/

namespace Sys2Proof

/-- Rules R56 to R74: the laws of the single operations, together. -/
theorem decode_encode (i : Instr) : Laws.DecodeEncode.Statement i := by
  cases i with
  | icw1 c ic4 sngl adi ltim a7_5 => exact Laws.DecodeEncode.icw1 c ic4 sngl adi ltim a7_5
  | ocw2RotateAeoiClear c l => exact Laws.DecodeEncode.ocw2RotateAeoiClear c l
  | ocw2Nseoi c l => exact Laws.DecodeEncode.ocw2Nseoi c l
  | ocw2Nop c l => exact Laws.DecodeEncode.ocw2Nop c l
  | ocw2Seoi c pin => exact Laws.DecodeEncode.ocw2Seoi c pin
  | ocw2RotateAeoiSet c l => exact Laws.DecodeEncode.ocw2RotateAeoiSet c l
  | ocw2Rnseoi c l => exact Laws.DecodeEncode.ocw2Rnseoi c l
  | ocw2Setprio c pin => exact Laws.DecodeEncode.ocw2Setprio c pin
  | ocw2Rseoi c pin => exact Laws.DecodeEncode.ocw2Rseoi c pin
  | ocw3 c ris rr poll smm esmm b7 => exact Laws.DecodeEncode.ocw3 c ris rr poll smm esmm b7
  | ocw1 c v => exact Laws.DecodeEncode.ocw1 c v
  | icw2 c v => exact Laws.DecodeEncode.icw2 c v
  | icw3 c v => exact Laws.DecodeEncode.icw3 c v
  | icw4 c upm aeoi ms buf sfnm b7_5 => exact Laws.DecodeEncode.icw4 c upm aeoi ms buf sfnm b7_5
  | rdIrrIsr c => exact Laws.DecodeEncode.rdIrrIsr c
  | rdPoll c => exact Laws.DecodeEncode.rdPoll c
  | rdImr c => exact Laws.DecodeEncode.rdImr c
  | elcrWr c v => exact Laws.DecodeEncode.elcrWr c v
  | elcrRd c => exact Laws.DecodeEncode.elcrRd c
  | mmioIdxRd => exact Laws.DecodeEncode.mmioIdxRd
  | mmioIdxWr value => exact Laws.DecodeEncode.mmioIdxWr value
  | idRd => exact Laws.DecodeEncode.idRd
  | idWr value => exact Laws.DecodeEncode.idWr value
  | verRd => exact Laws.DecodeEncode.verRd
  | verWr value => exact Laws.DecodeEncode.verWr value
  | arbRd => exact Laws.DecodeEncode.arbRd
  | arbWr value => exact Laws.DecodeEncode.arbWr value
  | rteLoRd pin => exact Laws.DecodeEncode.rteLoRd pin
  | rteLoWr pin value => exact Laws.DecodeEncode.rteLoWr pin value
  | rteHiRd pin => exact Laws.DecodeEncode.rteHiRd pin
  | rteHiWr pin value => exact Laws.DecodeEncode.rteHiWr pin value
  | unusedRd => exact Laws.DecodeEncode.unusedRd
  | unusedWr value => exact Laws.DecodeEncode.unusedWr value
  | mmioEoiWr value => exact Laws.DecodeEncode.mmioEoiWr value
  | mmioOtherRd off => exact Laws.DecodeEncode.mmioOtherRd off
  | mmioOtherWr off value => exact Laws.DecodeEncode.mmioOtherWr off value
  | picSetline line level tag => exact Laws.DecodeEncode.picSetline line level tag
  | picAck => exact Laws.DecodeEncode.picAck
  | ioSetline pin level tag isFlipFlop => exact Laws.DecodeEncode.ioSetline pin level tag isFlipFlop
  | ioSeteoi vector => exact Laws.DecodeEncode.ioSeteoi vector
  | ioSendmsi fields tag => exact Laws.DecodeEncode.ioSendmsi fields tag
  | reset => exact Laws.DecodeEncode.reset

/-- Settles O1: one law for each operation. -/
theorem decodingReadsWhatEncodingWrites : Obligations.DecodingReadsWhatEncodingWrites := decode_encode

/-- The access `t` is the one that `encode` writes for the operation `i`, and on a block in the mode `m` the operation exists
and is selected. -/
structure Instr.IsAccess (i : Instr) (m : DecodeMode) (t : Transaction) : Prop where
  encoded : encode m.params i = t
  wellFormed : i.wellFormed m.params.record = true
  selected : i.selectedBy m = true

/-! The bytes of rules R58 to R60 and R63, put together again from their fields. -/

theorem icw1Byte_of_fields (v : Byte) (h : v.getLsbD 4 = true) :
    icw1Byte (v.getLsbD 0) (v.getLsbD 1) (v.getLsbD 2) (v.getLsbD 3) (v.extractLsb' 5 3) = v := by
  revert v; decide

theorem ocw3Byte_of_fields (v : Byte) (h4 : v.getLsbD 4 = false) (h3 : v.getLsbD 3 = true) :
    ocw3Byte (v.getLsbD 0) (v.getLsbD 1) (v.getLsbD 2) (v.getLsbD 5) (v.getLsbD 6) (v.getLsbD 7) = v := by
  revert v; decide

theorem ocw2Byte_of_fields (v : Byte) (h4 : v.getLsbD 4 = false) (h3 : v.getLsbD 3 = false) :
    ocw2Byte (v.extractLsb' 5 3) (v.extractLsb' 0 3) = v := by
  revert v; decide

theorem icw4Byte_of_fields (v : Byte) : icw4Byte (v.getLsbD 0) (v.getLsbD 1) (v.getLsbD 2) (v.getLsbD 3) (v.getLsbD 4)
    (v.extractLsb' 5 3) = v := by
  revert v; decide

/-! The ports (rules R57, R61, R64). -/

/-- Rule R57: the eight codes of an OCW2. -/
theorem isAccess_decodeCommand_ocw2 (m : DecodeMode) (c : ChannelId) (code : BitVec 3) (l : Pin) :
    (decodeCommand c (ocw2Byte code l)).IsAccess m (encodePortWrite m.params (.command c) (ocw2Byte code l)) := by
  obtain ⟨h0, h1, h2, h3, h4, h5, h6, h7⟩ := decodeCommand_ocw2 c l
  have hcode : code = 0 ∨ code = 1 ∨ code = 2 ∨ code = 3 ∨ code = 4 ∨ code = 5 ∨ code = 6 ∨ code = 7 := by
    revert code; decide
  rcases hcode with rfl | rfl | rfl | rfl | rfl | rfl | rfl | rfl
  · rw [h0]; exact ⟨rfl, rfl, rfl⟩
  · rw [h1]; exact ⟨rfl, rfl, rfl⟩
  · rw [h2]; exact ⟨rfl, rfl, rfl⟩
  · rw [h3]; exact ⟨rfl, rfl, rfl⟩
  · rw [h4]; exact ⟨rfl, rfl, rfl⟩
  · rw [h5]; exact ⟨rfl, rfl, rfl⟩
  · rw [h6]; exact ⟨rfl, rfl, rfl⟩
  · rw [h7]; exact ⟨rfl, rfl, rfl⟩

/-- Rule R57: a command byte is an ICW1, an OCW3 or an OCW2, by its bits 4 and 3. -/
theorem isAccess_decodeCommand (m : DecodeMode) (c : ChannelId) (v : Byte) :
    (decodeCommand c v).IsAccess m (encodePortWrite m.params (.command c) v) := by
  cases h4 : v.getLsbD 4 with
  | true =>
    rw [decodeCommand, if_pos h4]
    exact ⟨congrArg (encodePortWrite m.params (.command c)) (icw1Byte_of_fields v h4), rfl, rfl⟩
  | false =>
    cases h3 : v.getLsbD 3 with
    | true =>
      rw [decodeCommand, if_neg (by rw [h4]; exact Bool.false_ne_true), if_pos h3]
      exact ⟨congrArg (encodePortWrite m.params (.command c)) (ocw3Byte_of_fields v h4 h3), rfl, rfl⟩
    | false =>
      have hocw2 := isAccess_decodeCommand_ocw2 m c (v.extractLsb' 5 3) (v.extractLsb' 0 3)
      rwa [ocw2Byte_of_fields v h4 h3] at hocw2

theorem initStep_cases (step : BitVec 2) : step = 0 ∨ step = 1 ∨ step = 2 ∨ step = 3 := by revert step; decide

/-- Rule R61: a data byte, by the channel's `initStep`. -/
theorem isAccess_decodeData (m : DecodeMode) (c : ChannelId) (v : Byte) :
    (decodeData (m.initStep c) c v).IsAccess m (encodePortWrite m.params (.data c) v) := by
  rcases initStep_cases (m.initStep c) with h | h | h | h <;> rw [h]
  · exact ⟨rfl, rfl, beq_iff_eq.2 h⟩
  · exact ⟨rfl, rfl, beq_iff_eq.2 h⟩
  · exact ⟨rfl, rfl, beq_iff_eq.2 h⟩
  · exact ⟨congrArg (encodePortWrite m.params (.data c)) (icw4Byte_of_fields v), rfl, beq_iff_eq.2 h⟩

theorem isAccess_decodePortWrite (m : DecodeMode) (role : PortRole) (v : Byte) :
    (decodePortWrite m role v).IsAccess m (encodePortWrite m.params role v) := by
  cases role with
  | command c => exact isAccess_decodeCommand m c v
  | data c => exact isAccess_decodeData m c v
  | elcr c => exact ⟨rfl, rfl, rfl⟩

/-- Rules R106, R107: a port+0 read is the poll exactly where one is armed. -/
theorem isAccess_decodePortRead (m : DecodeMode) (role : PortRole) :
    (decodePortRead m role).IsAccess m (encodePortRead m.params role) := by
  cases role with
  | command c =>
    cases h : m.poll c <;> simp only [decodePortRead, h]
    · exact ⟨rfl, rfl, by simp [Instr.selectedBy, h]⟩
    · exact ⟨rfl, rfl, h⟩
  | data c => exact ⟨rfl, rfl, rfl⟩
  | elcr c => exact ⟨rfl, rfl, rfl⟩

/-! The page (rules R66, R67). -/

/-- Rule R67: what the table says of the index that selects a register. -/
def IndirectReg.SelectedAt (v : VariantRecord) (i : Byte) : IndirectReg → Prop
  | .id => i = 0x00
  | .ver => i = 0x01
  | .arb => i = 0x02 ∧ v.hasArbReg = true
  | .rteLo pin => pin < v.pinCount ∧ i.toNat = 0x10 + 2 * pin
  | .rteHi pin => pin < v.pinCount ∧ i.toNat = 0x11 + 2 * pin
  | .unused => True

theorem selectedAt_indirectReg (v : VariantRecord) (i : Byte) : (indirectReg v i).SelectedAt v i := by
  simp only [indirectReg]
  split_ifs with hid hver harb hentry heven
  · exact hid
  · exact hver
  · exact harb
  · simp only [IndirectReg.SelectedAt, VariantRecord.lastIndex] at hentry ⊢; omega
  · simp only [IndirectReg.SelectedAt, VariantRecord.lastIndex] at hentry ⊢; omega
  · trivial

theorem isAccess_decodeDataRead (m : DecodeMode) :
    (decodeDataRead m.params.record m.selectedIndex).IsAccess m (encodeMmioRead m.params 0x10) := by
  have h := selectedAt_indirectReg m.params.record m.selectedIndex
  rw [decodeDataRead]
  cases hreg : indirectReg m.params.record m.selectedIndex <;> rw [hreg] at h
  case id | ver => exact ⟨rfl, rfl, beq_iff_eq.2 h⟩
  case unused => exact ⟨rfl, rfl, beq_iff_eq.2 hreg⟩
  case arb => exact ⟨rfl, h.2, beq_iff_eq.2 h.1⟩
  case rteLo pin | rteHi pin => exact ⟨rfl, decide_eq_true h.1, decide_eq_true h.2⟩

theorem isAccess_decodeDataWrite (m : DecodeMode) (value : Word) :
    (decodeDataWrite m.params.record m.selectedIndex value).IsAccess m (encodeMmioWrite m.params 0x10 value) := by
  have h := selectedAt_indirectReg m.params.record m.selectedIndex
  rw [decodeDataWrite]
  cases hreg : indirectReg m.params.record m.selectedIndex <;> rw [hreg] at h
  case id | ver => exact ⟨rfl, rfl, beq_iff_eq.2 h⟩
  case unused => exact ⟨rfl, rfl, beq_iff_eq.2 hreg⟩
  case arb => exact ⟨rfl, h.2, beq_iff_eq.2 h.1⟩
  case rteLo pin | rteHi pin => exact ⟨rfl, decide_eq_true h.1, decide_eq_true h.2⟩

/-- Rule R66: an aligned offset that is neither the index nor the data register names an "other" register. -/
theorem otherOffset_of_aligned {off : BitVec 12} (haligned : off.extractLsb' 0 2 = 0) (hidx : off ≠ 0x00)
    (hdata : off ≠ 0x10) : otherOffset off = true := by
  simp only [otherOffset, Bool.and_eq_true, beq_iff_eq, bne_iff_ne]
  exact ⟨⟨haligned, hidx⟩, hdata⟩

theorem isAccess_decodeMmioRead (m : DecodeMode) (off : BitVec 12) (haligned : off.extractLsb' 0 2 = 0) :
    (decodeMmioRead m off).IsAccess m (encodeMmioRead m.params off) := by
  rw [decodeMmioRead]
  split_ifs with hidx hdata
  · subst hidx; exact ⟨rfl, rfl, rfl⟩
  · subst hdata; exact isAccess_decodeDataRead m
  · exact ⟨rfl, otherOffset_of_aligned haligned hidx hdata, rfl⟩

theorem isAccess_decodeMmioWrite (m : DecodeMode) (off : BitVec 12) (value : Word) (haligned : off.extractLsb' 0 2 = 0) :
    (decodeMmioWrite m off value).IsAccess m (encodeMmioWrite m.params off value) := by
  rw [decodeMmioWrite]
  split_ifs with hidx hdata heoi
  · subst hidx; exact ⟨rfl, rfl, rfl⟩
  · subst hdata; exact isAccess_decodeDataWrite m value
  · obtain ⟨rfl, hreg⟩ := (eoiOffset_eq_true_iff _ _).1 heoi
    exact ⟨rfl, hreg, rfl⟩
  · exact ⟨rfl, by simp [Instr.wellFormed, otherOffset_of_aligned haligned hidx hdata, heoi], rfl⟩

theorem alignedWord_eq_true_iff (off : BitVec 12) (size : Nat) :
    alignedWord off size = true ↔ size = 4 ∧ off.extractLsb' 0 2 = 0 := by
  simp [alignedWord]

/-! Every transaction. -/

/-- Rules R38, R44: a port access that decodes goes to one of the six ports and is one byte wide. -/
theorem isAccess_of_decode_portWrite {i : Instr} {m : DecodeMode} {port : Port} {bytes : List Byte}
    (h : decode m (.portWrite port bytes) = .ok i) : i.IsAccess m (.portWrite port bytes) := by
  simp only [decode] at h
  split at h
  · cases h
  · next role hrole =>
    split at h
    · next v =>
      cases h
      rw [← portOf_of_portRole _ _ _ hrole]
      exact isAccess_decodePortWrite m role v
    · cases h

theorem isAccess_of_decode_portRead {i : Instr} {m : DecodeMode} {port : Port} {size : Nat}
    (h : decode m (.portRead port size) = .ok i) : i.IsAccess m (.portRead port size) := by
  simp only [decode] at h
  split at h
  · cases h
  · next role hrole =>
    split at h
    · next hsize =>
      cases h
      rw [← portOf_of_portRole _ _ _ hrole, hsize]
      exact isAccess_decodePortRead m role
    · cases h

/-- Rules R39, R43: a page access that decodes lies in the page, is four bytes wide and is aligned. -/
theorem isAccess_of_decode_mmioWrite {i : Instr} {m : DecodeMode} {addr : PhysAddr} {bytes : List Byte}
    (hm : m.params.wellFormed = true) (h : decode m (.mmioWrite addr bytes) = .ok i) :
    i.IsAccess m (.mmioWrite addr bytes) := by
  simp only [decode] at h
  split at h
  · cases h
  · next off hoff =>
    split at h
    · next hword =>
      obtain ⟨hsize, haligned⟩ := (alignedWord_eq_true_iff _ _).1 hword
      cases h
      have haccess := isAccess_decodeMmioWrite m off (wordOfBytes bytes) haligned
      rwa [encodeMmioWrite, add_of_pageOffset _ hm _ _ hoff, bytesOfWord_wordOfBytes bytes hsize] at haccess
    · cases h

theorem isAccess_of_decode_mmioRead {i : Instr} {m : DecodeMode} {addr : PhysAddr} {size : Nat}
    (hm : m.params.wellFormed = true) (h : decode m (.mmioRead addr size) = .ok i) : i.IsAccess m (.mmioRead addr size) := by
  simp only [decode] at h
  split at h
  · cases h
  · next off hoff =>
    split at h
    · next hword =>
      obtain ⟨rfl, haligned⟩ := (alignedWord_eq_true_iff _ _).1 hword
      cases h
      have haccess := isAccess_decodeMmioRead m off haligned
      rwa [encodeMmioRead, add_of_pageOffset _ hm _ _ hoff] at haccess
    · cases h

/-- Rules R56 to R74: an access that decodes is the access of its operation. A side-band call carries its operands as they
are. -/
theorem isAccess_of_decode {i : Instr} {m : DecodeMode} {t : Transaction} (hm : m.params.wellFormed = true)
    (h : decode m t = .ok i) : i.IsAccess m t := by
  cases t with
  | portWrite port bytes => exact isAccess_of_decode_portWrite h
  | portRead port size => exact isAccess_of_decode_portRead h
  | mmioWrite addr bytes => exact isAccess_of_decode_mmioWrite hm h
  | mmioRead addr size => exact isAccess_of_decode_mmioRead hm h
  | picSetLine | picAck | ioSetLine | ioSetEoi | ioSendMsi | reset => cases h; exact ⟨rfl, rfl, rfl⟩

/-- Settles O2. -/
theorem everyDecodedAccessIsTheEncodingOfItsOperation : Obligations.EveryDecodedAccessIsTheEncodingOfItsOperation := by
  intro i m t hm h
  obtain ⟨hencoded, hwellFormed, hselected⟩ := isAccess_of_decode hm h
  exact ⟨hencoded, hwellFormed, hselected⟩

/-- Settles O3: eight closed accesses, evaluated. -/
theorem decodingReadsTheWordsOfTheSpec : Obligations.DecodingReadsTheWordsOfTheSpec := by
  unfold Obligations.DecodingReadsTheWordsOfTheSpec
  decide

end Sys2Proof
end

section
/-! The PIC pair: the output (rules R83 to R85, R88), the command byte (rules R91 to R94, R96, R97, R100), the init sequence
(rule R105) and the ELCR write (rule R109). -/

namespace Sys2Proof.Machine

/-! The output. -/

/-- Settles O24: the first pass returns (`deliveryPass_eq`), and the output that it settles is a fixed point. -/
theorem updateDeliverySettlesTheOutputOnce : Obligations.UpdateDeliverySettlesTheOutputOnce := by
  intro s
  refine ⟨by rw [deliveryPass_eq], ?became, updateDelivery_of_settled _ (updateDelivery_settled s)⟩
  case became =>
    exact pairBecame_of_updateDelivery s s [] [] (picFrame_refl s) rfl _ rfl (picFrame_updateDelivery s) rfl

/-- Rule R20: an aligned vector base is a multiple of 8. -/
theorem vectorBase_mod_eight (base : Byte) (h : base &&& 0x07 = 0) : base.toNat % 8 = 0 := by
  have hnat : base.toNat &&& 2 ^ 3 - 1 = 0 := congrArg BitVec.toNat h
  rwa [Nat.and_two_pow_sub_one_eq_mod] at hnat

/-- Rule R88: a pin added to a multiple of 8 stays below the next one, so the sum does not carry. -/
theorem vectorOf_toNat (ch : PicChannel) (p : Pin) (h : ch.vectorBase.toNat % 8 = 0) :
    (vectorOf ch p).toNat = ch.vectorBase.toNat + p.toNat := by
  have hbase := ch.vectorBase.isLt
  have hpin := p.isLt
  simp only [vectorOf, BitVec.toNat_add, BitVec.toNat_setWidth]
  omega

/-- Settles O25. -/
theorem vectorIsBaseAndPin : Obligations.VectorIsBaseAndPin := by
  intro ch p h
  have hmod := vectorBase_mod_eight _ h
  have hsum := vectorOf_toNat ch p hmod
  have hbase := ch.vectorBase.isLt
  have hpin := p.isLt
  refine ⟨?union, ?high, ?low⟩
  case union =>
    have hdisjoint : ch.vectorBase.toNat ||| p.toNat = ch.vectorBase.toNat + p.toNat := by
      have hor := Nat.two_pow_add_eq_or_of_lt (i := 3) hpin (ch.vectorBase.toNat / 8)
      have hdiv : 2 ^ 3 * (ch.vectorBase.toNat / 8) = ch.vectorBase.toNat := by omega
      rw [hdiv] at hor
      exact hor.symm
    apply BitVec.eq_of_toNat_eq
    rw [hsum, BitVec.toNat_or, BitVec.toNat_setWidth, Nat.mod_eq_of_lt (by omega), hdisjoint]
  case high =>
    apply BitVec.eq_of_toNat_eq
    simp only [BitVec.extractLsb'_toNat, hsum, Nat.shiftRight_eq_div_pow]
    omega
  case low =>
    apply BitVec.eq_of_toNat_eq
    simp only [BitVec.extractLsb'_toNat, hsum, Nat.shiftRight_zero]
    omega

/-! What a channel write leaves in place. -/

/-- Rule R90: `chanBecame_writeChan` for a channel that the model writes in another form. -/
theorem chanBecame_writeChan_of_eq (s : State) (c : ChannelId) {ch ch' : PicChannel} (h : ch = ch') :
    s.chanBecame c ch' [] [] (s.writeChan c ch) := h ▸ chanBecame_writeChan s c ch

/-- Rules R84, R90: after a channel write the channel is as written, but for the pin 2 of the master. -/
theorem sameButPin2_of_chanBecame {s t : State} {c : ChannelId} {ch : PicChannel} {before after : List PicEvent}
    (h : s.chanBecame c ch before after t) : (t.chan c).sameButPin2 ch := by
  cases c with
  | master =>
    obtain ⟨hmaster, _⟩ := h
    exact hmaster
  | slave =>
    obtain ⟨_, hslave, _⟩ := h
    exact hslave ▸ sameButPin2_refl _

theorem initStep_of_chanBecame {s t : State} {c : ChannelId} {ch : PicChannel} {before after : List PicEvent}
    (h : s.chanBecame c ch before after t) : (t.chan c).initStep = ch.initStep := by
  obtain ⟨_, _, _, _, _, _, hstep, _⟩ := mem_sameButPin2_fields (sameButPin2_of_chanBecame h)
  exact hstep

/-! The command byte. -/

/-- Rule R156: a channel reset leaves the power-on values but for `elcr`, `elcrMask` and the tags. -/
theorem startInit_eq (ch : PicChannel) (ic4 : Bool) : startInit ch ic4 =
    { PicChannel.powerOn ch.elcrMask with
      elcr := ch.elcr, traceTag := ch.traceTag, initStep := 1, expectsFourthInitByte := ic4 } := rfl

/-- Rule R91: the diagnostics of an ICW1, most recent first. -/
theorem logPicIf_picOut (s : State) (cond : Bool) (k : LogKind) :
    (s.logPicIf cond k).picOut = (if cond then [.log k] else []) ++ s.picOut := by
  cases cond <;> rfl

/-- Settles O26. -/
theorem initCommandResetsItsChannel : Obligations.InitCommandResetsItsChannel := by
  intro c ic4 sngl adi ltim hi s
  refine ⟨_, rfl, ?_⟩
  rw [← startInit_eq]
  have hframe : s.picFrame (((s.setChan c (startInit (s.chan c) ic4)).logPicIf sngl .protocol).logPicIf ltim .protocol) :=
    picFrame_trans (picFrame_setChan ..) (picFrame_trans (picFrame_logPicIf ..) (picFrame_logPicIf ..))
  have h := pairBecame_of_updateDelivery s _
    ((if ltim then [.log .protocol] else []) ++ if sngl then [.log .protocol] else []) [] hframe
    (by simp [logPicIf_picOut]) _ rfl (picFrame_updateDelivery _) rfl
  rw [logPicIf_pair, logPicIf_pair] at h
  cases c <;> exact h

/-- Settles O27. -/
theorem rotateFlagCommandsAssignTheFlag : Obligations.RotateFlagCommandsAssignTheFlag := fun _ _ _ =>
  ⟨exists_next_chanBecame rfl rfl, exists_next_chanBecame rfl rfl⟩

theorem nonSpecificEoi_of_zero (ch : PicChannel) (h : ch.serviceReg = 0) :
    nonSpecificEoi ch = ch ∧ rotateNonSpecificEoi ch = ch := by
  simp [nonSpecificEoi, rotateNonSpecificEoi, servicedPin_of_zero ch h]

theorem nonSpecificEoi_of_highestIn (ch : PicChannel) (w : Pin) (h : highestIn ch.priorityBase ch.serviceReg w) :
    nonSpecificEoi ch = { ch with serviceReg := clearBit ch.serviceReg w } ∧
      rotateNonSpecificEoi ch = { ch with serviceReg := clearBit ch.serviceReg w, priorityBase := w + 1 } := by
  simp [nonSpecificEoi, rotateNonSpecificEoi, servicedPin_of_highestIn ch w h]

/-- Settles O28: the two commands are one channel write each, of a channel that depends on whether a pin is in service. -/
theorem nonSpecificEoiClearsTheHighestPinInService : Obligations.NonSpecificEoiClearsTheHighestPinInService := by
  intro c l s
  exact ⟨⟨_, rfl, fun hzero => chanBecame_writeChan_of_eq s c (nonSpecificEoi_of_zero _ hzero).1,
      fun w hw => chanBecame_writeChan_of_eq s c (nonSpecificEoi_of_highestIn _ w hw).1⟩,
    ⟨_, rfl, fun hzero => chanBecame_writeChan_of_eq s c (nonSpecificEoi_of_zero _ hzero).2,
      fun w hw => chanBecame_writeChan_of_eq s c (nonSpecificEoi_of_highestIn _ w hw).2⟩⟩

@[simp] theorem setChan_chan_self (s : State) (c : ChannelId) : s.setChan c (s.chan c) = s := by cases c <;> rfl

/-- Settles O29: the write puts the channel back, so only updateDelivery is left of it. -/
theorem nopCommandChangesNothing : Obligations.NopCommandChangesNothing := by
  intro c l s
  refine ⟨_, rfl, chanBecame_writeChan .., fun hsettled => ?_⟩
  rw [State.writeChan, setChan_chan_self, updateDelivery_of_settled s hsettled]

/-- Rule R100, flag by flag. -/
theorem applyOcw3_eq (ch : PicChannel) (ris rr poll smm esmm : Bool) : applyOcw3 ch ris rr poll smm esmm = { ch with
    pollModeActive := poll || ch.pollModeActive
    readRegisterSelect := bif rr then ris else ch.readRegisterSelect
    specialMaskActive := bif esmm then smm else ch.specialMaskActive } := by
  simp [applyOcw3, Bool.cond_eq_ite]

/-- Settles O31. -/
theorem modeCommandWritesTheEnabledFlags : Obligations.ModeCommandWritesTheEnabledFlags := fun _ _ _ _ _ _ _ _ =>
  exists_next_chanBecame rfl (applyOcw3_eq ..)

/-! The init sequence. -/

/-- Rules R93, R97: an EOI by priority leaves the init sequence alone. -/
theorem nonSpecificEoi_initStep (ch : PicChannel) :
    (nonSpecificEoi ch).initStep = ch.initStep ∧ (rotateNonSpecificEoi ch).initStep = ch.initStep := by
  simp only [nonSpecificEoi, rotateNonSpecificEoi]
  cases servicedPin ch <;> exact ⟨rfl, rfl⟩

/-- Rule R105: an operation that is one channel write leads to the step that it writes. -/
theorem exists_next_initStep {i : Instr} {s : State} {c : ChannelId} {ch : PicChannel} {step : BitVec 2}
    (hexec : exec i s = .next (s.writeChan c ch)) (hstep : ch.initStep = step) :
    ∃ t, exec i s = .next t ∧ (t.chan c).initStep = step :=
  ⟨_, hexec, (initStep_of_chanBecame (chanBecame_writeChan s c ch)).trans hstep⟩

/-- Rule R105, the command byte: an ICW1 starts the sequence, and the other commands leave its step. -/
theorem exists_next_decodeCommand_initStep (c : ChannelId) (v : Byte) (s : State) :
    ∃ t, exec (decodeCommand c v) s = .next t ∧
      (t.chan c).initStep = if v.getLsbD 4 = true then 1 else (s.chan c).initStep := by
  rw [decodeCommand]
  split_ifs
  · obtain ⟨t, hexec, hbecame⟩ := initCommandResetsItsChannel c (v.getLsbD 0) (v.getLsbD 1) (v.getLsbD 2) (v.getLsbD 3)
      (v.extractLsb' 5 3) s
    exact ⟨t, hexec, initStep_of_chanBecame hbecame⟩
  · exact exists_next_initStep rfl rfl
  · split
    case h_2 => exact exists_next_initStep rfl (nonSpecificEoi_initStep _).1
    case h_6 => exact exists_next_initStep rfl (nonSpecificEoi_initStep _).2
    all_goals exact exists_next_initStep rfl rfl

/-- Settles O34. -/
theorem initSequenceIsAStateMachine : Obligations.InitSequenceIsAStateMachine := by
  intro c v s
  refine ⟨?data, exists_next_decodeCommand_initStep c v s⟩
  case data =>
    rcases initStep_cases (s.chan c).initStep with h | h | h | h <;> rw [h]
    · obtain ⟨t, hexec, ht⟩ := exists_next_initStep (i := .ocw1 c v) (s := s) rfl h
      exact ⟨t, hexec, fun _ => ⟨rfl, ht⟩, nofun, nofun, nofun⟩
    · obtain ⟨t, hexec, ht⟩ := exists_next_initStep (i := .icw2 c v) (s := s) rfl rfl
      exact ⟨t, hexec, nofun, fun _ => ⟨rfl, ht⟩, nofun, nofun⟩
    · obtain ⟨t, hexec, ht⟩ := exists_next_initStep (i := .icw3 c v) (s := s) rfl rfl
      exact ⟨t, hexec, nofun, nofun, fun _ => ⟨rfl, ht⟩, nofun⟩
    · obtain ⟨t, hexec, ht⟩ := exists_next_initStep (i := decodeData 3 c v) (s := s) rfl rfl
      exact ⟨t, hexec, nofun, nofun, nofun, fun _ => ⟨rfl, ht⟩⟩

/-! The trigger modes. -/

/-- Settles O35. -/
theorem triggerModeWriteIsMasked : Obligations.TriggerModeWriteIsMasked := by
  intro c v s
  have hbecame := chanBecame_writeChan s c { s.chan c with elcr := v &&& (s.chan c).elcrMask }
  refine ⟨_, rfl, hbecame, ?masked⟩
  case masked =>
    obtain ⟨_, _, _, _, helcr, hmask, _⟩ := mem_sameButPin2_fields (sameButPin2_of_chanBecame hbecame)
    rw [helcr, hmask, BitVec.and_assoc]
    simp

end Sys2Proof.Machine
end

section
/-! The PIC pair: the device reset (rules R156, R157), the acknowledge (rule R87), the poll (rule R107), and the line calls
with their tags (rules R77 to R80). -/

namespace Sys2Proof.Machine

/-! The device reset. -/

theorem getPendingIrq_of_no_request (c : ChannelId) (ch : PicChannel) (h : ch.requestReg = 0) :
    getPendingIrq c ch = none := by
  cases hw : getPendingIrq c ch with
  | none => rfl
  | some w =>
    obtain ⟨hrequest, _⟩ := getPendingIrq_request c ch w hw
    simp [h, hasBit] at hrequest

/-- Rule R83: with no slave winner, the cascade step leaves a reset master as it is. -/
theorem drivePin2_deviceChannelReset (master slave : PicChannel) :
    drivePin2 (deviceChannelReset master) slave none = deviceChannelReset master := by
  obtain ⟨hrequest, hshadow, htag⟩ := drivePin2_pin2 (deviceChannelReset master) slave none
  have hzero : hasBit 0#8 2 = false := by decide
  have htags : tagOf (deviceChannelReset master) 2 = 0 := by simp [tagOf, deviceChannelReset]
  exact eq_of_sameButPin2 _ _ (sameButPin2_drivePin2 ..) (hrequest.trans hzero.symm) (hshadow.trans hzero.symm)
    (htag.trans htags.symm)

/-- Rules R156, R157: the reset of the pair and the updateDelivery after it. -/
theorem resetPair_eq (s : State) : s.resetPair = { s with
    pair := { master := deviceChannelReset s.pair.master, slave := deviceChannelReset s.pair.slave, intOut := false }
    picOut := .intrLower :: s.picOut } := by
  have hslave : getPendingIrq .slave (deviceChannelReset s.pair.slave) = none := getPendingIrq_of_no_request _ _ rfl
  have hmaster : getPendingIrq .master (deviceChannelReset s.pair.master) = none := getPendingIrq_of_no_request _ _ rfl
  simp only [State.resetPair, updateDelivery_eq, State.winner, chan_slave, hslave, drivePin2_deviceChannelReset, hmaster]
  rfl

/-- Settles O21. -/
theorem deviceResetLeavesTheResetValues : Obligations.DeviceResetLeavesTheResetValues := by
  intro s
  refine ⟨s.deviceReset, rfl, ?_⟩
  rw [State.deviceReset, resetPair_eq]
  exact ⟨rfl, rfl, rfl, rfl, rfl, rfl, rfl, rfl⟩

/-! The acknowledge. -/

/-- Rule R86: the bookkeeping of a winner leaves the vector and the tags alone. -/
theorem vectorOf_intack (ch : PicChannel) (w p : Pin) : vectorOf (intack ch w) p = vectorOf ch p := by rw [intack_eq]; rfl

theorem tagOf_intack (ch : PicChannel) (w p : Pin) : tagOf (intack ch w) p = tagOf ch p := by rw [intack_eq]; rfl

/-- Rule R87: the spurious acknowledge of the master. -/
theorem acknowledgeWinner_of_none {s : State} (h : s.winner .master = none) :
    s.acknowledgeWinner = (s, vectorOf s.pair.master 7, 0) := by
  simp only [State.acknowledgeWinner, h]

/-- Rule R87: the acknowledge of a master pin. -/
theorem acknowledgeWinner_of_masterPin {s : State} {m : Pin} (h : s.winner .master = some m) (hm : m ≠ 2) :
    s.acknowledgeWinner = (s.setChan .master (setTag (intack s.pair.master m) m 0), vectorOf s.pair.master m,
      tagOf s.pair.master m) := by
  simp only [State.acknowledgeWinner, h, if_neg hm, setChan_master_pair_master, vectorOf_intack, tagOf_intack]
  rfl

/-- Rule R87: master pin 2 with no slave winner behind it. -/
theorem acknowledgeWinner_of_spuriousSlave {s : State} (h : s.winner .master = some 2) (hslave : s.winner .slave = none) :
    s.acknowledgeWinner = (s.setChan .master (intack s.pair.master 2), vectorOf s.pair.slave 7, 0) := by
  have hw : (s.setChan .master (intack s.pair.master 2)).winner .slave = none := hslave
  simp only [State.acknowledgeWinner, h, if_pos, hw, setChan_master_pair_slave]

/-- Rule R87: a slave pin through master pin 2. -/
theorem acknowledgeWinner_of_slavePin {s : State} {w : Pin} (h : s.winner .master = some 2)
    (hslave : s.winner .slave = some w) :
    s.acknowledgeWinner = ((s.setChan .master (intack s.pair.master 2)).setChan .slave
      (setTag (intack s.pair.slave w) w 0), vectorOf s.pair.slave w, tagOf s.pair.slave w) := by
  have hw : (s.setChan .master (intack s.pair.master 2)).winner .slave = some w := hslave
  simp only [State.acknowledgeWinner, h, if_pos, hw, setChan_master_pair_slave, vectorOf_intack, tagOf_intack]

/-- Rule R87: after its bookkeeping `u`, the acknowledge runs updateDelivery and answers. -/
theorem pairBecame_acknowledge {s u : State} {vec : Byte} {tag : Tag} (h : s.acknowledgeWinner = (u, vec, tag))
    (hframe : s.picFrame u) (hsent : u.picOut = s.picOut) :
    s.pairBecame u.pair.master u.pair.slave [] [.acknowledged vec tag] s.acknowledge := by
  have hack : s.acknowledge = u.updateDelivery.emitPic (.acknowledged vec tag) := by rw [State.acknowledge, h]
  rw [hack]
  exact pairBecame_of_updateDelivery s u [] _ hframe hsent _ rfl
    (picFrame_trans (picFrame_updateDelivery u) (picFrame_emitPic ..)) rfl

/-- Settles O38: one lemma for the bookkeeping of each case. -/
theorem acknowledgeReturnsTheWinnersVector : Obligations.AcknowledgeReturnsTheWinnersVector := by
  intro s
  refine ⟨fun hsettled hwin => ?behind, s.acknowledge, rfl, fun hnone => ?spurious, fun m hwin hm => ?masterPin,
    fun hwin hslave => ?spuriousSlave, fun w hwin hslave => ?slavePin⟩
  case behind =>
    obtain ⟨hcascade, _⟩ := hsettled
    obtain ⟨hrequest, _⟩ := getPendingIrq_request _ _ _ hwin
    exact Option.isSome_iff_exists.1 (hcascade.symm.trans hrequest)
  case spurious => exact pairBecame_acknowledge (acknowledgeWinner_of_none hnone) (picFrame_refl s) rfl
  case masterPin =>
    exact pairBecame_acknowledge (acknowledgeWinner_of_masterPin hwin hm) (picFrame_setChan ..) rfl
  case spuriousSlave =>
    exact pairBecame_acknowledge (acknowledgeWinner_of_spuriousSlave hwin hslave) (picFrame_setChan ..) rfl
  case slavePin =>
    exact pairBecame_acknowledge (acknowledgeWinner_of_slavePin hwin hslave)
      (picFrame_trans (picFrame_setChan ..) (picFrame_setChan ..)) rfl

/-! The poll. -/

/-- Rule R107: ending the poll does not change who wins. -/
theorem pollRead_eq (s : State) (c : ChannelId) : s.pollRead c =
    (s.writeChan c (pollAck { s.chan c with pollModeActive := false } (s.winner c))).returnByte (pollWord (s.winner c)) := by
  have hwin : getPendingIrq c { s.chan c with pollModeActive := false } = s.winner c :=
    getPendingIrq_congr _ _ _ rfl rfl rfl rfl rfl rfl
  rw [State.pollRead, hwin]

theorem chanBecame_returnByte (s : State) (c : ChannelId) (ch : PicChannel) (v : Byte) :
    s.chanBecame c ch [] [.portByte v] ((s.writeChan c ch).returnByte v) := by
  have h := pairBecame_of_updateDelivery s (s.setChan c ch) [] [.portByte v] (picFrame_setChan s c ch) (setChan_picOut ..)
    ((s.writeChan c ch).returnByte v) rfl (picFrame_trans (picFrame_updateDelivery _) (picFrame_emitPic ..)) rfl
  cases c <;> exact h

/-- Rule R107, in one statement for both cases. -/
theorem chanBecame_pollRead (s : State) (c : ChannelId) :
    s.chanBecame c (pollAck { s.chan c with pollModeActive := false } (s.winner c)) [] [.portByte (pollWord (s.winner c))]
      (s.pollRead c) := by
  rw [pollRead_eq]; exact chanBecame_returnByte ..

/-- Settles O39. -/
theorem pollAcknowledgesOnItsChannel : Obligations.PollAcknowledgesOnItsChannel := by
  intro c s
  have hpoll := chanBecame_pollRead s c
  refine ⟨s.pollRead c, rfl, fun hnone => ?_, fun w hwin => ?_⟩
  · rw [hnone] at hpoll; exact hpoll
  · rw [hwin] at hpoll; exact hpoll

/-! The lines. -/

/-- Settles O40, by the three cases of the rule. -/
theorem tagMergeKeepsTheFirstAndMarksACollision : Obligations.TagMergeKeepsTheFirstAndMarksACollision := by
  intro cur new
  refine ⟨fun hkeep => ?_, fun hnew hcur => ?_, fun hnew hne hcur => ?_⟩
  · rw [tagMerge, if_pos hkeep]
  · rw [tagMerge, if_neg fun h => h.elim hnew fun hsame => hnew (hsame.trans hcur), if_pos hcur]
  · rw [tagMerge, if_neg (not_or.2 ⟨hnew, hne⟩), if_neg hcur]; rfl

/-- Rule R25: lines 0 to 7 are the master's. -/
theorem lineChannel_eq (line : BitVec 16) : lineChannel line = if line.toNat < 8 then .master else .slave := by
  have hshift : line >>> 3 = 0 ↔ line.toNat < 8 := by
    rw [← BitVec.toNat_inj]
    simp only [BitVec.toNat_ushiftRight, Nat.shiftRight_eq_div_pow, BitVec.ofNat_eq_ofNat, BitVec.toNat_ofNat]
    omega
  simp only [lineChannel, hshift]

/-- Rule R25: the pin of a line is its number modulo 8. -/
theorem linePin_eq (line : BitVec 16) : linePin line = BitVec.ofNat 3 line.toNat := by
  apply BitVec.eq_of_toNat_eq
  simp [linePin]

theorem exec_picSetline_of_missing {line : BitVec 16} (h : 16 ≤ line.toNat) (level : PicLevel) (tag : Tag) (s : State) :
    exec (.picSetline line level tag) s = .next (s.emitPic (.log .addressing)) := if_pos h

theorem exec_picSetline_low {line : BitVec 16} (h : line.toNat < 16) (tag : Tag) (s : State) :
    exec (.picSetline line .low tag) s = .next (s.driveLine (lineChannel line) (linePin line) false tag) :=
  if_neg (Nat.not_le.2 h)

theorem exec_picSetline_high {line : BitVec 16} (h : line.toNat < 16) (tag : Tag) (s : State) :
    exec (.picSetline line .high tag) s = .next (s.driveLine (lineChannel line) (linePin line) true tag) :=
  if_neg (Nat.not_le.2 h)

theorem exec_picSetline_flipFlop {line : BitVec 16} (h : line.toNat < 16) (tag : Tag) (s : State) :
    exec (.picSetline line .flipFlop tag) s = .next ((s.driveLine (lineChannel line) (linePin line) false tag).driveLine
      (lineChannel line) (linePin line) true tag) :=
  if_neg (Nat.not_le.2 h)

/-- Rule R78, level 1, register by register: only an edge pin already seen asserted makes no request. -/
theorem assertPin_eq (ch : PicChannel) (p : Pin) (tag : Tag) : assertPin ch p tag = { ch with
    requestReg := if hasBit ch.elcr p = false ∧ hasBit ch.lastRequestReg p = true then ch.requestReg
      else setBit ch.requestReg p
    lastRequestReg := setBit ch.lastRequestReg p
    traceTag := ch.traceTag.set p.toNat (tagMerge ch.traceTag[p.toNat] tag) } := by
  simp only [assertPin, setTag, tagOf]
  cases hasBit ch.elcr p <;> cases hasBit ch.lastRequestReg p <;> rfl

/-- Settles O41. -/
theorem lineCallsDriveTheirPin : Obligations.LineCallsDriveTheirPin := by
  intro line tag s c p ch
  have hc : lineChannel line = c := lineChannel_eq line
  have hp : linePin line = p := linePin_eq line
  refine ⟨fun hmissing level => exec_picSetline_of_missing hmissing level tag s,
    fun hline => ⟨_, exec_picSetline_low hline tag s, ?low⟩,
    fun hline => ⟨_, exec_picSetline_high hline tag s, ?high⟩⟩
  case low => rw [hc, hp]; exact chanBecame_writeChan s c _
  case high => rw [hc, hp]; exact chanBecame_writeChan_of_eq s c (assertPin_eq ch p tag)

/-- Rules R84, R90: after a channel write the requests and their shadow are as written, but for the cascade's own pin. -/
theorem pin_of_chanBecame {s t : State} {c : ChannelId} {ch : PicChannel} {before after : List PicEvent} {p : Pin}
    (h : s.chanBecame c ch before after t) (hp : ¬(c = .master ∧ p = 2)) :
    hasBit (t.chan c).requestReg p = hasBit ch.requestReg p ∧
      hasBit (t.chan c).lastRequestReg p = hasBit ch.lastRequestReg p := by
  cases c with
  | master =>
    obtain ⟨⟨_, hpins⟩, _⟩ := h
    obtain ⟨hrequest, hshadow, _⟩ := hpins p fun hp2 => hp ⟨rfl, hp2⟩
    exact ⟨hrequest, hshadow⟩
  | slave =>
    obtain ⟨_, hslave, _⟩ := h
    rw [chan_slave, hslave]; exact ⟨rfl, rfl⟩

/-- Rule R78: on either trigger mode, a High requests on a pin that was not seen asserted. -/
theorem assertPin_requests {ch : PicChannel} {p : Pin} (tag : Tag) (h : hasBit ch.lastRequestReg p = false) :
    hasBit (assertPin ch p tag).requestReg p = true ∧ hasBit (assertPin ch p tag).lastRequestReg p = true := by
  rw [assertPin_eq]
  simp [h]

/-- Rules R77, R80: the Low of a flip-flop clears the shadow, so the High after it requests. -/
theorem flipFlop_requests (s : State) (c : ChannelId) (p : Pin) (tag : Tag) (hp : ¬(c = .master ∧ p = 2)) :
    hasBit ((((s.driveLine c p false tag).driveLine c p true tag).chan c).requestReg) p = true ∧
      hasBit ((((s.driveLine c p false tag).driveLine c p true tag).chan c).lastRequestReg) p = true := by
  obtain ⟨_, hlow⟩ := pin_of_chanBecame (chanBecame_writeChan s c (deassertPin (s.chan c) p)) hp
  have hcleared : hasBit ((s.driveLine c p false tag).chan c).lastRequestReg p = false := hlow.trans (by simp [deassertPin])
  obtain ⟨hrequest, hshadow⟩ := pin_of_chanBecame
    (chanBecame_writeChan (s.driveLine c p false tag) c (assertPin ((s.driveLine c p false tag).chan c) p tag)) hp
  obtain ⟨hrequested, hseen⟩ := assertPin_requests tag hcleared
  exact ⟨hrequest.trans hrequested, hshadow.trans hseen⟩

/-- Rule R25: only line 2 is the pin 2 of the master. -/
theorem line_ne_masterPin2 {line : BitVec 16} (h : line.toNat ≠ 2) :
    ¬(lineChannel line = .master ∧ linePin line = 2) := by
  rintro ⟨hmaster, hpin⟩
  have hlt : line.toNat < 8 := by
    by_contra hge
    rw [lineChannel_eq, if_neg hge] at hmaster
    cases hmaster
  have hmod : line.toNat % 8 = 2 := by simpa [linePin] using congrArg BitVec.toNat hpin
  omega

/-- Settles O42. -/
theorem flipFlopIsALowThenAHigh : Obligations.FlipFlopIsALowThenAHigh := by
  intro line tag s hline
  refine ⟨_, _, exec_picSetline_low hline tag s, exec_picSetline_high hline tag _, exec_picSetline_flipFlop hline tag s,
    fun hne => ?_⟩
  rw [← lineChannel_eq, ← linePin_eq]
  exact flipFlop_requests s _ _ tag (line_ne_masterPin2 hne)

end Sys2Proof.Machine
end

section
/-! What an operation can do to the setup and the requests of a channel (`ChannelChange`, `pairChange_of_exec`), and from
that the writers of rules R15, R16 and R20 to R22 and the settled output of rules R84 and R85. -/

namespace Sys2Proof.Machine

/-- The operation resets channel `c` (rule R156): the device reset, or an ICW1 on it. -/
def Restarts (c : ChannelId) (i : Instr) : Prop := i = .reset ∨ ∃ ic4 sngl adi ltim hi, i = .icw1 c ic4 sngl adi ltim hi

/-- All that an operation `i` can do to the setup and the requests of channel `c`, from `a` to `b`. -/
structure ChannelChange (c : ChannelId) (i : Instr) (a b : PicChannel) : Prop where
  elcrMask : b.elcrMask = a.elcrMask
  maskReg : b.maskReg = a.maskReg ∨ Restarts c i ∨ ∃ v, i = .ocw1 c v
  vectorBase : b.vectorBase = a.vectorBase ∨ (Restarts c i ∧ b.vectorBase = 0) ∨
    ∃ v, i = .icw2 c v ∧ b.vectorBase = v &&& 0xF8
  elcr : b.elcr = a.elcr ∨ ∃ v, i = .elcrWr c v ∧ b.elcr = v &&& a.elcrMask
  requests : ∀ p, hasBit b.requestReg p = true →
    hasBit a.requestReg p = true ∨ (c = .master ∧ p = 2) ∨ ∃ line level tag, i = .picSetline line level tag

namespace ChannelChange
variable {c : ChannelId} {i : Instr} {a b d : PicChannel}

/-- An operation that leaves the setup alone and makes no request. -/
theorem of_kept (hmask : b.maskReg = a.maskReg) (hbase : b.vectorBase = a.vectorBase) (helcr : b.elcr = a.elcr)
    (helcrMask : b.elcrMask = a.elcrMask)
    (hrequests : ∀ p, hasBit b.requestReg p = true → hasBit a.requestReg p = true) : ChannelChange c i a b :=
  ⟨helcrMask, .inl hmask, .inl hbase, .inl helcr, fun p hp => .inl (hrequests p hp)⟩

theorem refl : ChannelChange c i a a := of_kept rfl rfl rfl rfl fun _ hp => hp

/-- The cascade's own write of master pin 2 (rule R83). -/
theorem of_cascade (h : ChannelChange c i a b) (hpin2 : d.sameButPin2 b) (hslave : c = .slave → d = b) :
    ChannelChange c i a d := by
  obtain ⟨hmask, _, _, hbase, helcr, helcrMask, _⟩ := mem_sameButPin2_fields hpin2
  refine ⟨helcrMask.trans h.elcrMask, hmask ▸ h.maskReg, hbase ▸ h.vectorBase, helcr ▸ h.elcr, fun p hp => ?_⟩
  cases c with
  | slave => exact h.requests p (hslave rfl ▸ hp)
  | master =>
    by_cases hp2 : p = 2
    · exact .inr (.inl ⟨rfl, hp2⟩)
    · obtain ⟨_, hpins⟩ := hpin2
      obtain ⟨hrequest, _⟩ := hpins p hp2
      exact h.requests p (hrequest ▸ hp)

theorem trans (h : ChannelChange c i a b) (h' : ChannelChange c i b d) : ChannelChange c i a d where
  elcrMask := h'.elcrMask.trans h.elcrMask
  maskReg := h'.maskReg.elim (fun hkept => hkept ▸ h.maskReg) .inr
  vectorBase := h'.vectorBase.elim (fun hkept => hkept ▸ h.vectorBase) .inr
  elcr := h'.elcr.elim (fun hkept => hkept ▸ h.elcr) fun hwritten => .inr (h.elcrMask ▸ hwritten)
  requests p hp := (h'.requests p hp).elim (h.requests p) .inr

/-- Rule R86: an acknowledge only takes requests away. -/
theorem intack (w : Pin) : ChannelChange c i a (intack a w) := by
  rw [intack_eq]
  refine of_kept rfl rfl rfl rfl fun p hp => ?_
  dsimp only at hp
  split at hp
  · exact hp
  · exact hasBit_of_clearBit hp

theorem setTag (h : ChannelChange c i a b) (p : Pin) (t : Tag) : ChannelChange c i a (setTag b p t) :=
  h.trans (of_kept rfl rfl rfl rfl fun _ hp => hp)

/-- Rule R107: the bookkeeping of a poll. -/
theorem pollAck (w : Option Pin) : ChannelChange c i a (pollAck { a with pollModeActive := false } w) := by
  have hended : ChannelChange c i a { a with pollModeActive := false } := of_kept rfl rfl rfl rfl fun _ hp => hp
  cases w with
  | none => exact hended
  | some w => exact (hended.trans (.intack w)).setTag w 0

/-- Rules R93, R97: an EOI touches the service register and the priority base alone. -/
theorem nonSpecificEoi : ChannelChange c i a (nonSpecificEoi a) ∧ ChannelChange c i a (rotateNonSpecificEoi a) := by
  simp only [Machine.nonSpecificEoi, rotateNonSpecificEoi]
  cases servicedPin a <;> exact ⟨of_kept rfl rfl rfl rfl fun _ hp => hp, of_kept rfl rfl rfl rfl fun _ hp => hp⟩

/-- Rule R78: a line call may make a request, and leaves the setup alone. -/
theorem drivenPin (line : BitVec 16) (level : PicLevel) (tag : Tag) (p : Pin) (high : Bool) :
    ChannelChange c (.picSetline line level tag) a (if high then assertPin a p tag else deassertPin a p) := by
  cases high <;> exact ⟨rfl, .inl rfl, .inl rfl, .inl rfl, fun _ _ => .inr (.inr ⟨line, level, tag, rfl⟩)⟩

/-- Rule R156: the reset of a channel. -/
theorem of_restarts (hi : Restarts c i) (helcrMask : b.elcrMask = a.elcrMask) (hbase : b.vectorBase = 0)
    (helcr : b.elcr = a.elcr) (hrequest : b.requestReg = 0) : ChannelChange c i a b :=
  ⟨helcrMask, .inr (.inl hi), .inr (.inl ⟨hi, hbase⟩), .inl helcr, fun p hp => by simp [hrequest, hasBit] at hp⟩

end ChannelChange

/-- All that an operation can do to the pair: leave it alone, or change its channels and settle the output. -/
inductive PairChange (i : Instr) (s t : State) : Prop where
  | kept (same : t.pair = s.pair)
  | changed (settled : t.settled) (channels : ∀ c, ChannelChange c i (s.chan c) (t.chan c))

namespace PairChange
variable {i : Instr} {s t u : State} {before after : List PicEvent}

theorem of_pairBecame {master slave : PicChannel} (h : s.pairBecame master slave before after t)
    (hmaster : ChannelChange .master i s.pair.master master) (hslave : ChannelChange .slave i s.pair.slave slave) :
    PairChange i s t := by
  obtain ⟨hm, hs, hsettled, _⟩ := h
  refine .changed hsettled fun c => ?_
  cases c with
  | master => exact hmaster.of_cascade hm nofun
  | slave => exact hslave.of_cascade (hs ▸ sameButPin2_refl _) fun _ => hs

/-- A channel write changes the other channel by the cascade alone. -/
theorem of_chanBecame {c : ChannelId} {ch : PicChannel} (h : s.chanBecame c ch before after t)
    (hch : ChannelChange c i (s.chan c) ch) : PairChange i s t := by
  cases c with
  | master => exact of_pairBecame h hch .refl
  | slave => exact of_pairBecame h .refl hch

theorem of_writeChan {c : ChannelId} {ch : PicChannel} (hch : ChannelChange c i (s.chan c) ch) :
    PairChange i s (s.writeChan c ch) := of_chanBecame (chanBecame_writeChan s c ch) hch

theorem trans (h : PairChange i s t) (h' : PairChange i t u) : PairChange i s u := by
  cases h' with
  | kept same =>
    cases h with
    | kept same' => exact .kept (same.trans same')
    | changed settled channels => exact .changed (settled_congr same settled) fun c => chan_of_pair same c ▸ channels c
  | changed settled' channels' =>
    refine .changed settled' fun c => ?_
    cases h with
    | kept same => exact chan_of_pair same c ▸ channels' c
    | changed _ channels => exact (channels c).trans (channels' c)

theorem driveLine (line : BitVec 16) (level : PicLevel) (tag : Tag) (c : ChannelId) (p : Pin) (high : Bool) :
    PairChange (.picSetline line level tag) s (s.driveLine c p high tag) := of_writeChan (.drivenPin line level tag p high)

/-- Rule R87, over the four cases of `acknowledgeReturnsTheWinnersVector`. -/
theorem acknowledge : PairChange .picAck s s.acknowledge := by
  obtain ⟨_, t, hexec, hspurious, hmasterPin, hspuriousSlave, hslavePin⟩ := acknowledgeReturnsTheWinnersVector s
  have ht : t = s.acknowledge := next_inj hexec
  subst ht
  cases hm : s.winner .master with
  | none => exact of_pairBecame (hspurious hm) .refl .refl
  | some m =>
    by_cases h2 : m = 2
    · subst h2
      cases hs : s.winner .slave with
      | none => exact of_pairBecame (hspuriousSlave hm hs) (.intack 2) .refl
      | some w => exact of_pairBecame (hslavePin w hm hs) (.intack 2) ((ChannelChange.intack w).setTag w 0)
    · exact of_pairBecame (hmasterPin m hm h2) ((ChannelChange.intack m).setTag m 0) .refl

theorem reset : PairChange .reset s s.deviceReset := by
  refine .changed (settled_congr rfl (updateDelivery_settled _)) fun c => ?_
  have hchan : s.deviceReset.chan c = deviceChannelReset (s.chan c) := by
    rw [State.deviceReset, resetPair_eq]; cases c <;> rfl
  rw [hchan]
  exact .of_restarts (.inl rfl) rfl rfl rfl rfl

end PairChange

theorem pairChange_of_exec (i : Instr) (s t : State) (h : exec i s = .next t) : PairChange i s t := by
  cases i with
  | icw1 c ic4 sngl adi ltim hi =>
    obtain ⟨u, hexec, hbecame⟩ := initCommandResetsItsChannel c ic4 sngl adi ltim hi s
    have hu : u = t := next_inj (h.symm.trans hexec)
    subst hu
    exact .of_chanBecame hbecame (.of_restarts (.inr ⟨ic4, sngl, adi, ltim, hi, rfl⟩) rfl rfl rfl rfl)
  | ocw2Nseoi => rw [next_inj h]; exact .of_writeChan ChannelChange.nonSpecificEoi.1
  | ocw2Rnseoi => rw [next_inj h]; exact .of_writeChan ChannelChange.nonSpecificEoi.2
  | ocw2RotateAeoiClear | ocw2Nop | ocw2Seoi | ocw2RotateAeoiSet | ocw2Setprio | ocw2Rseoi | ocw3 | icw3 | icw4 =>
    rw [next_inj h]; exact .of_writeChan (.of_kept rfl rfl rfl rfl fun _ hp => hp)
  | ocw1 c v =>
    rw [next_inj h]
    exact .of_writeChan ⟨rfl, .inr (.inr ⟨v, rfl⟩), .inl rfl, .inl rfl, fun _ hp => .inl hp⟩
  | icw2 c v =>
    rw [next_inj h]
    exact .of_writeChan ⟨rfl, .inl rfl, .inr (.inr ⟨v, rfl, rfl⟩), .inl rfl, fun _ hp => .inl hp⟩
  | elcrWr c v =>
    rw [next_inj h]
    exact .of_writeChan ⟨rfl, .inl rfl, .inl rfl, .inr ⟨v, rfl, rfl⟩, fun _ hp => .inl hp⟩
  | rdPoll c => rw [next_inj h]; exact .of_chanBecame (chanBecame_pollRead s c) (.pollAck _)
  | rdIrrIsr c =>
    rw [exec_rdIrrIsr] at h
    split at h <;> rw [next_inj h]
    · exact .of_chanBecame (chanBecame_pollRead s c) (.pollAck _)
    · exact .kept rfl
  | rdImr | elcrRd => rw [next_inj h]; exact .kept rfl
  | picAck => rw [next_inj h]; exact .acknowledge
  | picSetline line level tag =>
    by_cases hline : 16 ≤ line.toNat
    · rw [exec_picSetline_of_missing hline] at h; rw [next_inj h]; exact .kept rfl
    · have hline := Nat.lt_of_not_le hline
      cases level with
      | low => rw [exec_picSetline_low hline] at h; rw [next_inj h]; exact .driveLine ..
      | high => rw [exec_picSetline_high hline] at h; rw [next_inj h]; exact .driveLine ..
      | flipFlop =>
        rw [exec_picSetline_flipFlop hline] at h; rw [next_inj h]
        exact (PairChange.driveLine ..).trans (.driveLine ..)
  | reset => rw [next_inj h]; exact .reset
  | _ =>
    obtain ⟨_, hpair, _⟩ := ioFrame_of_exec _ s t h rfl (by simp)
    exact .kept hpair

/-- An operation changes each channel as `ChannelChange` says. -/
theorem channelChange_of_exec {i : Instr} {s t : State} (h : exec i s = .next t) (c : ChannelId) :
    ChannelChange c i (s.chan c) (t.chan c) := by
  cases pairChange_of_exec i s t h with
  | kept same => rw [chan_of_pair same]; exact .refl
  | changed _ channels => exact channels c

/-- Settles O13: an operation that leaves the pair alone leaves it settled, and any other one settles it anew. -/
theorem everyOperationKeepsTheOutputSettled : Obligations.EveryOperationKeepsTheOutputSettled := by
  intro i s t hsettled h
  cases pairChange_of_exec i s t h with
  | kept same => exact settled_congr same hsettled
  | changed settled _ => exact settled

/-- Settles O16. -/
theorem newRequestsComeOnlyFromTheLines : Obligations.NewRequestsComeOnlyFromTheLines := by
  intro i s t c p h hpin2 hbefore hafter
  rcases (channelChange_of_exec h c).requests p hafter with hp | hp | hline
  · exact absurd (hbefore.symm.trans hp) Bool.false_ne_true
  · exact absurd hp hpin2
  · exact hline

/-- Settles O17. -/
theorem channelSetupHasItsWriters : Obligations.ChannelSetupHasItsWriters := by
  intro i s t c h hreset hicw1
  have hchange := channelChange_of_exec h c
  have hrestarts : ¬Restarts c i := by
    rintro (hi | ⟨ic4, sngl, adi, ltim, hi, hicw⟩)
    · exact hreset hi
    · exact hicw1 _ _ _ _ _ hicw
  refine ⟨fun hne => ?_, fun hne => ?_, fun hne => ?_⟩
  · rcases hchange.maskReg with hkept | hrestart | hwriter
    · exact absurd hkept hne
    · exact absurd hrestart hrestarts
    · exact hwriter
  · rcases hchange.vectorBase with hkept | ⟨hrestart, _⟩ | ⟨v, hwriter, _⟩
    · exact absurd hkept hne
    · exact absurd hrestart hrestarts
    · exact ⟨v, hwriter⟩
  · rcases hchange.elcr with hkept | ⟨v, hwriter, _⟩
    · exact absurd hkept hne
    · exact ⟨v, hwriter⟩

end Sys2Proof.Machine
end

section
/-! The invariant, part by part, for the claims that start from it (rules R26, R34). -/

namespace Sys2Proof.Machine

theorem inv_iff (s : State) : s.inv = true ↔
    s.params.wellFormed = true ∧ s.pair.master.elcrInMask = true ∧ s.pair.slave.elcrInMask = true ∧
      s.pair.master.vectorBaseAligned = true ∧ s.pair.slave.vectorBaseAligned = true ∧ s.io.fits s.record = true := by
  simp only [State.inv, Bool.and_eq_true, and_assoc]

theorem keepsReadOnlyBits_of_inv {s : State} (h : s.inv = true) : s.record.keepsReadOnlyBits = true := by
  obtain ⟨hparams, _⟩ := (inv_iff s).1 h
  simp only [Params.wellFormed, Bool.and_eq_true] at hparams
  obtain ⟨_, hmask⟩ := hparams
  exact hmask

theorem fits_of_inv {s : State} (h : s.inv = true) : s.io.fits s.record = true := by
  obtain ⟨_, _, _, _, _, hfits⟩ := (inv_iff s).1 h
  exact hfits

/-- Rule R26: one entry and one tag for each pin. -/
theorem length_of_inv {s : State} (h : s.inv = true) :
    s.io.rte.length = s.record.pinCount ∧ s.io.traceTag.length = s.record.pinCount := by
  obtain ⟨_, hrte, htag, _⟩ := (fits_iff _ _).1 (fits_of_inv h)
  exact ⟨hrte, htag⟩

/-- Rule R26: no bit of the pending bitmap lies above the pins. -/
theorem lt_pinCount_of_pending {s : State} {p : Nat} (h : s.inv = true) (hp : s.pending p = true) :
    p < s.record.pinCount := by
  obtain ⟨_, _, _, hpending, _⟩ := (fits_iff _ _).1 (fits_of_inv h)
  by_contra hge
  exact Bool.false_ne_true ((hpending p (Nat.le_of_not_lt hge)).symm.trans hp)

end Sys2Proof.Machine
end

section
/-! The I/O APIC: reads and writes of an entry (rules R121 to R123), the delivery path (rules R129, R130, R135), the EOI
register (rule R126), the line calls (rules R132, R133) and the masking of a pending entry (rule R137). -/

namespace Sys2Proof.Machine

/-! Entries. -/

theorem exec_rteLoRd (p : Nat) (s : State) :
    exec (.rteLoRd p) s = .next (s.returnWord (half (s.rte p &&& s.record.rteReadMask) false)) := rfl

theorem exec_rteHiRd (p : Nat) (s : State) :
    exec (.rteHiRd p) s = .next (s.returnWord (half (s.rte p &&& s.record.rteReadMask) true)) := rfl

/-- Settles O45. -/
theorem entryReadsReturnTheMaskedHalf : Obligations.EntryReadsReturnTheMaskedHalf := by
  intro s p
  refine ⟨⟨_, exec_rteLoRd p s, fun k hk => ?_⟩, ⟨_, exec_rteHiRd p s, fun k hk => ?_⟩⟩
  · rw [half_getLsbD _ _ _ hk, BitVec.getLsbD_and]; rfl
  · rw [half_getLsbD _ _ _ hk, BitVec.getLsbD_and]; rfl

/-- Rule R122: the entry as a write of one half leaves it, before any delivery. -/
def State.writtenEntry (s : State) (p : Nat) (high : Bool) (value : Word) : Entry :=
  mergeHalf s.record.rteWriteMask (s.rte p) high value

/-- Rule R122: the state with that entry in place, before any delivery. -/
def State.written (s : State) (p : Nat) (high : Bool) (value : Word) : State := s.setRte p (s.writtenEntry p high value)

theorem writtenEntry_low_getLsbD (s : State) (p : Nat) (value : Word) (k : Nat) (hk : k < 64) :
    (s.writtenEntry p false value).getLsbD k =
      if k < 32 ∧ s.record.rteWriteMask.getLsbD k = true then value.getLsbD k else (s.rte p).getLsbD k := by
  rw [State.writtenEntry, mergeHalf_getLsbD _ _ _ _ _ hk]
  by_cases h32 : k < 32
  · simp [h32, Nat.mod_eq_of_lt h32]
  · simp [h32, Nat.le_of_not_lt h32]

theorem writtenEntry_high_getLsbD (s : State) (p : Nat) (value : Word) (k : Nat) (hk : k < 64) :
    (s.writtenEntry p true value).getLsbD k =
      if 32 ≤ k ∧ s.record.rteWriteMask.getLsbD k = true then value.getLsbD (k - 32) else (s.rte p).getLsbD k := by
  rw [State.writtenEntry, mergeHalf_getLsbD _ _ _ _ _ hk]
  by_cases h32 : 32 ≤ k
  · simp [h32, show k % 32 = k - 32 by omega]
  · simp [h32]

theorem writeRteHalf_of_idle {s : State} {p : Nat} (h : s.pending p = false) (high : Bool) (value : Word) :
    s.writeRteHalf p high value = s.written p high value := by
  simp only [State.writeRteHalf, h]; rfl

theorem writeRteHalf_of_pending {s : State} {p : Nat} (h : s.pending p = true) (high : Bool) (value : Word) :
    s.writeRteHalf p high value = (s.written p high value).signalPending p := by
  simp only [State.writeRteHalf, h]; rfl

/-- Settles O46: the delivery decision of rule R131 follows the write where the pin is pending. -/
theorem entryWritesMergeAndMayDeliver : Obligations.EntryWritesMergeAndMayDeliver := by
  intro s p value
  refine ⟨⟨s.writtenEntry p false value, _, writtenEntry_low_getLsbD s p value, rfl,
      fun hidle => writeRteHalf_of_idle hidle false value, fun hpending => ?low⟩,
    ⟨s.writtenEntry p true value, _, writtenEntry_high_getLsbD s p value, rfl,
      fun hidle => writeRteHalf_of_idle hidle true value, fun hpending => ?high⟩⟩
  case low => rw [writeRteHalf_of_pending hpending]; exact deliveryDecisionFollowsTheEntry ..
  case high => rw [writeRteHalf_of_pending hpending]; exact deliveryDecisionFollowsTheEntry ..

/-- Rule R34: a merge through a mask without the bits 12 and 14 leaves them alone. -/
theorem mergeHalf_readOnly {v : VariantRecord} (h : v.keepsReadOnlyBits = true) (e : Entry) (high : Bool) (value : Word) :
    rteDeliveryStatus (mergeHalf v.rteWriteMask e high value) = rteDeliveryStatus e ∧
      rteRemoteIrr (mergeHalf v.rteWriteMask e high value) = rteRemoteIrr e := by
  simp only [VariantRecord.keepsReadOnlyBits, Bool.and_eq_true, Bool.not_eq_true'] at h
  obtain ⟨h12, h14⟩ := h
  rw [rteDeliveryStatus, rteRemoteIrr, mergeHalf_getLsbD _ _ _ _ _ (by decide), mergeHalf_getLsbD _ _ _ _ _ (by decide),
    if_neg fun hbit => Bool.false_ne_true (h12.symm.trans hbit.2),
    if_neg fun hbit => Bool.false_ne_true (h14.symm.trans hbit.2)]
  exact ⟨rfl, rfl⟩

/-- Rule R123: the entry as written keeps its read-only bits, on a pin of the table and outside it. -/
theorem written_readOnly {s : State} (h : s.record.keepsReadOnlyBits = true) (p q : Nat) (high : Bool) (value : Word) :
    rteDeliveryStatus ((s.written p high value).rte q) = rteDeliveryStatus (s.rte q) ∧
      rteRemoteIrr ((s.written p high value).rte q) = rteRemoteIrr (s.rte q) := by
  rw [State.written, setRte_rte]
  split
  · next hpq => rw [← hpq.1]; exact mergeHalf_readOnly h ..
  · exact ⟨rfl, rfl⟩

/-- Rule R123: what a write does to the read-only bits of its entry. -/
theorem writeRteHalf_readOnly {s : State} (h : s.inv = true) (p : Nat) (high : Bool) (value : Word) :
    rteDeliveryStatus ((s.writeRteHalf p high value).rte p) = rteDeliveryStatus (s.rte p) ∧
    (rteRemoteIrr ((s.writeRteHalf p high value).rte p) = rteRemoteIrr (s.rte p) ∨
      (rteRemoteIrr (s.rte p) = false ∧ rteRemoteIrr ((s.writeRteHalf p high value).rte p) = true ∧ s.pending p = true ∧
        rteMasked ((s.writeRteHalf p high value).rte p) = false ∧ rteLevel ((s.writeRteHalf p high value).rte p) = true ∧
        ∃ r, (s.writeRteHalf p high value).ioOut = .attempt r .accept :: s.ioOut ∧
          (s.writeRteHalf p high value).hookCalls = s.hookCalls + 1)) := by
  obtain ⟨hstatus, hirr⟩ := written_readOnly (keepsReadOnlyBits_of_inv h) p p high value
  cases hpending : s.pending p with
  | false =>
    rw [writeRteHalf_of_idle hpending]
    exact ⟨hstatus, .inl hirr⟩
  | true =>
    rw [writeRteHalf_of_pending hpending]
    rcases signalPending_rte_self (s.written p high value) p with
      hsame | ⟨hset, hunmasked, hlevel, hclear, _, hcalls, _, r, hsent⟩
    · rw [hsame]; exact ⟨hstatus, .inl hirr⟩
    · obtain ⟨hmasked', hlevel', _, hstatus', _⟩ := fields_setRemoteIrr ((s.written p high value).rte p)
      rw [hset]
      exact ⟨hstatus'.trans hstatus, .inr ⟨hirr.symm.trans hclear, rteRemoteIrr_set _, rfl, hmasked'.trans hunmasked,
        hlevel'.trans hlevel, r, hsent, hcalls⟩⟩

/-- Rule R122: where `mask` can be written, a write of the low word sets it to the value's bit 16. -/
theorem rteMasked_written_low {s : State} {p : Nat} (hp : p < s.io.rte.length)
    (hmask : s.record.rteWriteMask.getLsbD 16 = true) (value : Word) :
    rteMasked ((s.written p false value).rte p) = value.getLsbD 16 := by
  rw [State.written, setRte_rte_same _ _ _ hp, rteMasked, writtenEntry_low_getLsbD _ _ _ _ (by decide),
    if_pos ⟨by decide, hmask⟩]

/-- Rules R122, R131: a write that masks its entry makes no delivery decision that does anything. -/
theorem writeRteHalf_of_masking {s : State} {p : Nat} {value : Word} (h : s.inv = true)
    (hmask : s.record.rteWriteMask.getLsbD 16 = true) (hvalue : value.getLsbD 16 = true) :
    s.writeRteHalf p false value = s.written p false value := by
  cases hpending : s.pending p with
  | false => exact writeRteHalf_of_idle hpending false value
  | true =>
    obtain ⟨hlength, _⟩ := length_of_inv h
    have hp : p < s.io.rte.length := hlength ▸ lt_pinCount_of_pending h hpending
    rw [writeRteHalf_of_pending hpending,
      signalPending_of_masked ((rteMasked_written_low hp hmask value).trans hvalue)]

/-- Settles O47. -/
theorem writesNeverReachTheReadOnlyBits : Obligations.WritesNeverReachTheReadOnlyBits := by
  intro s t p value hinv
  refine ⟨fun h => ?anyValue, fun hmask h => ?allOnes⟩
  case anyValue =>
    rcases h with h | h <;> rw [next_inj h]
    · exact writeRteHalf_readOnly hinv p false value
    · exact writeRteHalf_readOnly hinv p true value
  case allOnes =>
    obtain ⟨hstatus, hirr⟩ := written_readOnly (keepsReadOnlyBits_of_inv hinv) p p false 0xFFFFFFFF
    have ht : t = s.written p false 0xFFFFFFFF :=
      (next_inj h).trans (writeRteHalf_of_masking hinv hmask (by decide))
    rw [ht]
    exact ⟨hstatus, hirr, rfl, rfl⟩

/-! The delivery path. -/

/-- Settles O48. -/
theorem deliveryConsultsTheHookAndTheTarget : Obligations.DeliveryConsultsTheHookAndTheTarget := fun s d =>
  ⟨attempted_deliver s d, ioFrame_deliver s d, deliver_io s d, fun hidentity => by rw [State.remapped, hidentity]⟩

/-- Settles O53. -/
theorem eoiRegisterBroadcastsTheLowByte : Obligations.EoiRegisterBroadcastsTheLowByte := by
  intro value s
  refine ⟨_, rfl, ?_⟩
  rw [BitVec.setWidth_eq_extractLsb' (by decide)]
  rfl

/-- Settles O54. -/
theorem messageIsDeliveredDirectly : Obligations.MessageIsDeliveredDirectly := fun f tag s =>
  ⟨_, _, rfl, attempted_deliver s (descriptorOfMsi f tag), deliver_io .., ioFrame_deliver ..⟩

/-! The lines. -/

/-- Rule R133: the state with the tag of the call merged into the pin's. -/
def State.mergeIoTag (s : State) (p : Nat) (tag : Tag) : State := s.setIoTag p (tagMerge (s.ioTag p) tag)

section
variable {s : State} {pin : Byte} (hpin : pin.toNat < s.record.pinCount)
include hpin

theorem exec_ioSetline_low (tag : Tag) :
    exec (.ioSetline pin .low tag false) s = .next ((s.clearPending pin.toNat).setIoTag pin.toNat 0) :=
  if_neg (Nat.not_le.2 hpin)

theorem exec_ioSetline_high (tag : Tag) :
    exec (.ioSetline pin .high tag false) s = .next ((s.mergeIoTag pin.toNat tag).assertIoPin pin.toNat) :=
  if_neg (Nat.not_le.2 hpin)

theorem exec_ioSetline_flipFlop (level : IoLevel) (tag : Tag) :
    exec (.ioSetline pin level tag true) s = .next ((s.mergeIoTag pin.toNat tag).flipFlopIoPin pin.toNat) :=
  if_neg (Nat.not_le.2 hpin)

end

theorem exec_ioSetline_of_missing {s : State} {pin : Byte} (hpin : s.record.pinCount ≤ pin.toNat) (level : IoLevel)
    (tag : Tag) (isFlipFlop : Bool) :
    exec (.ioSetline pin level tag isFlipFlop) s = .next (s.emitIo (.log .addressing)) := if_pos hpin

theorem assertIoPin_of_idle {s : State} {p : Nat} (h : s.pending p = false) :
    s.assertIoPin p = ((s.clearFlipFlop p).setPending p).signalPending p := by
  simp only [State.assertIoPin, h]; rfl

theorem assertIoPin_of_pending_level {s : State} {p : Nat} (h : s.pending p = true) (hlevel : rteLevel (s.rte p) = true) :
    s.assertIoPin p = (s.clearFlipFlop p).countRedundant.signalPending p := by
  simp only [State.assertIoPin, h, hlevel, if_true]

theorem assertIoPin_of_pending_edge {s : State} {p : Nat} (h : s.pending p = true) (hlevel : rteLevel (s.rte p) = false) :
    s.assertIoPin p = (s.clearFlipFlop p).countRedundant := by
  simp only [State.assertIoPin, h, hlevel, if_true]; rfl

/-- Settles O50: one lemma per case of the call. -/
theorem ioLineCallsDriveTheirPin : Obligations.IoLineCallsDriveTheirPin := by
  intro s pin tag level ff p tags
  refine ⟨fun hmissing => exec_ioSetline_of_missing hmissing level tag ff, fun hpin => exec_ioSetline_low hpin tag,
    fun hpin => ⟨_, exec_ioSetline_flipFlop hpin level tag, deliveryDecisionFollowsTheEntry _ p⟩,
    fun hpin hidle => ⟨_, exec_ioSetline_high hpin tag, ?first⟩,
    fun hpin hpending => ⟨_, exec_ioSetline_high hpin tag, fun hlevel => ?repeatedLevel, fun hedge => ?repeatedEdge⟩⟩
  case first =>
    rw [assertIoPin_of_idle (s := s.mergeIoTag pin.toNat tag) hidle]
    exact deliveryDecisionFollowsTheEntry _ p
  case repeatedLevel =>
    rw [assertIoPin_of_pending_level (s := s.mergeIoTag pin.toNat tag) hpending hlevel]
    exact deliveryDecisionFollowsTheEntry _ p
  case repeatedEdge => exact assertIoPin_of_pending_edge (s := s.mergeIoTag pin.toNat tag) hpending hedge

/-! Masking. -/

theorem deliver_hookCalls (s : State) (d : Descriptor) : (s.deliver d).1.hookCalls = s.hookCalls + 1 := by
  rw [(deliver_spec s d).1]

/-- Rule R131: an unmasked entry that is not suppressed makes one call of the delivery path. -/
theorem signalPending_hookCalls {s : State} {p : Nat} (hunmasked : rteMasked (s.rte p) = false)
    (harmed : rteLevel (s.rte p) = true → rteRemoteIrr (s.rte p) = false) :
    (s.signalPending p).hookCalls = s.hookCalls + 1 := by
  rw [signalPending_of_attempting hunmasked harmed]; exact deliver_hookCalls ..

/-- Rule R131: the delivery decision does not change the trigger mode. -/
theorem rteLevel_signalPending (s : State) (p : Nat) : rteLevel ((s.signalPending p).rte p) = rteLevel (s.rte p) := by
  rcases signalPending_rte_self s p with hsame | ⟨hset, _⟩
  · rw [hsame]
  · obtain ⟨_, hlevel, _⟩ := fields_setRemoteIrr (s.rte p)
    rw [hset, hlevel]

/-- Rule R137: a write of the low word that unmasks a pending entry makes one call of the delivery path, but for a level
entry whose `remoteIrr` is set. -/
theorem writeRteHalf_hookCalls_of_unmasking {s : State} {p : Nat} {value : Word}
    (hreadOnly : s.record.keepsReadOnlyBits = true)
    (hp : p < s.io.rte.length) (hpending : s.pending p = true) (hmask : s.record.rteWriteMask.getLsbD 16 = true)
    (hvalue : value.getLsbD 16 = false)
    (harmed : rteLevel ((s.writeRteHalf p false value).rte p) = false ∨ rteRemoteIrr (s.rte p) = false) :
    (s.writeRteHalf p false value).hookCalls = s.hookCalls + 1 := by
  obtain ⟨_, hirr⟩ := written_readOnly hreadOnly p p false value
  rw [writeRteHalf_of_pending hpending] at harmed ⊢
  rw [rteLevel_signalPending] at harmed
  refine signalPending_hookCalls ((rteMasked_written_low hp hmask value).trans hvalue) fun hlevel => ?_
  rcases harmed with hedge | hclear
  · exact absurd (hedge.symm.trans hlevel) Bool.false_ne_true
  · exact hirr.trans hclear

/-- Settles O56: the masking write leaves a pending entry whose read-only bits and pins are those of before. -/
theorem unmaskingAPendingEntryAttemptsIt : Obligations.UnmaskingAPendingEntryAttemptsIt := by
  intro s p masking unmasking hinv hp hpending hmask hmasking hunmasking
  obtain ⟨hlength, _⟩ := length_of_inv hinv
  have hreadOnly := keepsReadOnlyBits_of_inv hinv
  have ht : s.writeRteHalf p false masking = s.written p false masking :=
    writeRteHalf_of_masking hinv hmask hmasking
  have hp' : p < (s.written p false masking).io.rte.length := by simpa [State.written, hlength] using hp
  exact ⟨_, _, congrArg Host.Outcome.next ht, rfl, hpending, rfl,
    writeRteHalf_hookCalls_of_unmasking hreadOnly hp' hpending hmask hunmasking⟩

end Sys2Proof.Machine
end

section
/-! The EOI broadcast (rule R134), visit by visit: `eoiVisit` says what the visit of one pin does in terms of the state before
the broadcast, and `setEoi_rte` that a pin's visit decides its entry. Then level re-arm (rule R136). -/

namespace Sys2Proof.Machine

theorem clearRemoteIrr_eq (e : Entry) : clearRemoteIrr e = e &&& ~~~0x4000#64 := by
  rw [clearRemoteIrr, show 1#64 <<< 14 = 0x4000#64 by decide]

theorem setRemoteIrr_eq (e : Entry) : setRemoteIrr e = e ||| 0x4000#64 := by
  rw [setRemoteIrr, show 1#64 <<< 14 = 0x4000#64 by decide]

/-- Rule R134: the entry of pin `p` is level and has the vector of the broadcast. -/
def State.EoiMatches (s : State) (vector : Byte) (p : Nat) : Prop :=
  rteLevel (s.rte p) = true ∧ rteVector (s.rte p) = vector

theorem reattempted_iff (s : State) (vector : Byte) (p : Nat) : s.reattempted vector p = true ↔
    s.EoiMatches vector p ∧ s.pending p = true ∧ rteMasked (s.rte p) = false := by
  simp only [State.reattempted, State.EoiMatches, Bool.and_eq_true, beq_iff_eq, Bool.not_eq_true', and_assoc]

theorem eoiMatches_of_reattempted {s : State} {vector : Byte} {p : Nat} (h : s.reattempted vector p = true) :
    s.EoiMatches vector p := by
  obtain ⟨hmatch, _⟩ := (reattempted_iff s vector p).1 h
  exact hmatch

/-- The visit of pin `p` in a broadcast from `s`, from `u` to `u'`: it makes no attempt, or exactly one. -/
inductive EoiVisit (vector : Byte) (s : State) (p : Nat) (u u' : State) : Prop where
  | quiet (once : s.reattempted vector p = false) (sent : u'.ioOut = u.ioOut) (calls : u'.hookCalls = u.hookCalls)
      (script : u'.targetScript = u.targetScript) (kept : ¬s.EoiMatches vector p → u'.rte p = s.rte p)
      (cleared : s.EoiMatches vector p → u'.rte p = clearRemoteIrr (s.rte p))
  | attempted (again : s.reattempted vector p = true) (took : Bool)
      (attempt : u.attempted (descriptorOf (s.rte p) (s.ioTag p)) took u')
      (entry : u'.rte p = if took then setRemoteIrr (s.rte p) else clearRemoteIrr (s.rte p))

theorem eoiVisited_ioTag (s : State) (vector : Byte) (p : Nat) (hp : p ≤ s.io.rte.length) :
    (s.eoiVisited vector p).ioTag p = s.ioTag p := by
  obtain ⟨_, hio, _, _⟩ := eoiVisited_keeps s vector p hp
  rw [State.ioTag, hio]; rfl

/-- Rule R134: the visit of pin `p`, whose entry, tag and pending bit no earlier visit has changed. -/
theorem eoiVisit (s : State) (vector : Byte) (p : Nat) (hp : p < s.io.rte.length) :
    EoiVisit vector s p (s.eoiVisited vector p) (s.eoiVisited vector (p + 1)) := by
  obtain ⟨_, _, hlength, hrte⟩ := eoiVisited_keeps s vector p hp.le
  have hre := eoiVisited_reattempted s vector p hp.le
  have hentry : (s.eoiVisited vector p).rte p = s.rte p := hrte p le_rfl
  have htag := eoiVisited_ioTag s vector p hp.le
  rw [eoiVisited_succ]
  rcases eoiPin_cases vector (s.eoiVisited vector p) p (hlength ▸ hp) with
    ⟨hmatch, hvisit⟩ | ⟨hmatch, honce, hvisit⟩ | ⟨hagain, took, htook, hvisit⟩
  · have hno : ¬s.EoiMatches vector p := by simpa [State.EoiMatches, hentry] using hmatch
    have honce : s.reattempted vector p = false := by
      rw [← Bool.not_eq_true]; exact fun hagain => hno (eoiMatches_of_reattempted hagain)
    rw [hvisit]
    exact .quiet honce rfl rfl rfl (fun _ => hentry) fun hyes => absurd hyes hno
  · have hyes : s.EoiMatches vector p := by simpa [State.EoiMatches, hentry] using hmatch
    rw [hvisit]
    refine .quiet (hre ▸ honce) rfl rfl rfl (fun hno => absurd hyes hno) fun _ => ?_
    rw [← hentry]
    exact setRte_rte_same _ _ _ (hlength ▸ hp)
  · refine .attempted (hre ▸ hagain) took ?attempt ?entry
    all_goals rw [hentry, htag] at htook hvisit; rw [hvisit]
    case attempt =>
      rw [htook]
      exact attempted_with_io (attempted_deliver _ _) _
    case entry => exact setRte_rte_same _ _ _ (hlength ▸ hp)

/-- Rule R134: the entry of a pin after the broadcast is the one that its visit left. -/
theorem setEoi_rte {s : State} (hlength : s.io.rte.length = s.record.pinCount) (vector : Byte) {p : Nat}
    (hp : p < s.record.pinCount) : (s.setEoi vector).rte p = (s.eoiVisited vector (p + 1)).rte p := by
  rw [← eoiVisited_all]
  exact eoiVisited_rte_later s vector p s.record.pinCount hp hlength.ge

theorem setEoi_rte_of_missing {s : State} (hlength : s.io.rte.length = s.record.pinCount) (vector : Byte) {p : Nat}
    (hp : s.record.pinCount ≤ p) : (s.setEoi vector).rte p = s.rte p := by
  obtain ⟨_, _, _, hrte⟩ := eoiVisited_keeps s vector s.record.pinCount hlength.ge
  exact hrte p hp

/-- Rule R134: an entry that does not match stays as it is. -/
theorem setEoi_rte_of_unmatched {s : State} (hlength : s.io.rte.length = s.record.pinCount) (vector : Byte) {p : Nat}
    (h : ¬(p < s.record.pinCount ∧ s.EoiMatches vector p)) : (s.setEoi vector).rte p = s.rte p := by
  by_cases hp : p < s.record.pinCount
  · have hno : ¬s.EoiMatches vector p := fun hmatch => h ⟨hp, hmatch⟩
    rw [setEoi_rte hlength vector hp]
    cases eoiVisit s vector p (hlength ▸ hp) with
    | quiet once sent calls script kept cleared => exact kept hno
    | attempted again => exact absurd (eoiMatches_of_reattempted again) hno
  · exact setEoi_rte_of_missing hlength vector (Nat.le_of_not_lt hp)

/-- Settles O51. -/
theorem eoiClearsEveryMatchingEntry : Obligations.EoiClearsEveryMatchingEntry := by
  intro s vector hinv
  obtain ⟨hlength, _⟩ := length_of_inv hinv
  obtain ⟨hframe, hio, hlength', _⟩ := eoiVisited_keeps s vector s.record.pinCount hlength.ge
  refine ⟨s.setEoi vector, s.eoiVisited vector, rfl, rfl, rfl, hframe, hio, hlength', fun p =>
    ⟨setEoi_rte_of_unmatched hlength vector, fun hp => ⟨?params, fun honce => ?quiet, fun hagain => ?attempted⟩⟩⟩
  case params =>
    obtain ⟨⟨hparams, _⟩, _⟩ := eoiVisited_keeps s vector p (hlength ▸ hp.le)
    exact hparams
  case quiet =>
    cases eoiVisit s vector p (hlength ▸ hp) with
    | quiet once sent calls script kept cleared =>
      refine ⟨sent, calls, script, fun hlevel hvector => ?_⟩
      rw [setEoi_rte hlength vector hp, cleared ⟨hlevel, hvector⟩, clearRemoteIrr_eq]
    | attempted again => exact absurd (honce.symm.trans again) Bool.false_ne_true
  case attempted =>
    cases eoiVisit s vector p (hlength ▸ hp) with
    | quiet once => exact absurd (once.symm.trans hagain) Bool.false_ne_true
    | attempted again took attempt entry =>
      exact ⟨took, attempt, by rw [setEoi_rte hlength vector hp, entry, clearRemoteIrr_eq, setRemoteIrr_eq]⟩

/-! The attempts of a broadcast. -/

/-- Rule R134: the pins below `n` that a broadcast attempts again, in the order of their visits. -/
def State.reattemptedBelow (s : State) (vector : Byte) (n : Nat) : List Nat :=
  (List.range n).filter (s.reattempted vector)

theorem reattemptedBelow_succ (s : State) (vector : Byte) (n : Nat) : s.reattemptedBelow vector (n + 1) =
    s.reattemptedBelow vector n ++ if s.reattempted vector n = true then [n] else [] := by
  rw [State.reattemptedBelow, List.range_succ, List.filter_append, List.filter_singleton]
  cases s.reattempted vector n <;> rfl

/-- Rules R128, R134: the descriptors of those attempts. -/
def State.eoiDescriptors (s : State) (vector : Byte) (n : Nat) : List Descriptor :=
  (s.reattemptedBelow vector n).map fun p => descriptorOf (s.rte p) (s.ioTag p)

/-- Rule R130: with the default hook, a call of the delivery path is one attempt with the descriptor as it is. -/
theorem attempted_of_identity {s t : State} {d : Descriptor} {took : Bool} (hremap : s.params.remap = .identity)
    (h : s.attempted d took t) : t.hookCalls = s.hookCalls + 1 ∧ took = decide (s.answer = .accept) ∧
      t.ioOut = .attempt d s.answer :: s.ioOut := by
  have hsame : s.remapped d = some d := by rw [State.remapped, hremap]
  rw [State.attempted, hsame] at h
  obtain ⟨hcalls, htook, hsent, _⟩ := h
  exact ⟨hcalls, htook, hsent⟩

/-- Rule R134: the attempts of the visits below `n`, most recent first, by induction on `n`. -/
theorem eoiVisited_attempts {s : State} {vector : Byte} (hremap : s.params.remap = .identity) (n : Nat)
    (hn : n ≤ s.io.rte.length) : ∃ answers : List Answer, answers.length = (s.reattemptedBelow vector n).length ∧
      (s.eoiVisited vector n).ioOut =
        ((s.eoiDescriptors vector n).zipWith IoEvent.attempt answers).reverse ++ s.ioOut ∧
      (s.eoiVisited vector n).hookCalls = s.hookCalls + answers.length := by
  induction n with
  | zero => exact ⟨[], rfl, rfl, rfl⟩
  | succ n ih =>
    obtain ⟨answers, hlength, hsent, hcalls⟩ := ih (by omega)
    obtain ⟨⟨hparams, _⟩, _⟩ := eoiVisited_keeps s vector n (by omega)
    cases eoiVisit s vector n hn with
    | quiet once sent calls =>
      have hpins : s.reattemptedBelow vector (n + 1) = s.reattemptedBelow vector n := by
        rw [reattemptedBelow_succ, once]; exact List.append_nil _
      rw [State.eoiDescriptors, hpins, sent, calls]
      exact ⟨answers, hlength, hsent, hcalls⟩
    | attempted again took attempt =>
      have hpins : s.reattemptedBelow vector (n + 1) = s.reattemptedBelow vector n ++ [n] := by
        rw [reattemptedBelow_succ, if_pos again]
      obtain ⟨hcall, _, hattempt⟩ := attempted_of_identity (hparams ▸ hremap) attempt
      refine ⟨answers ++ [(s.eoiVisited vector n).answer], ?_, ?_, ?_⟩
      · rw [hpins]; simp [hlength]
      · have hdescriptors : s.eoiDescriptors vector (n + 1) =
            s.eoiDescriptors vector n ++ [descriptorOf (s.rte n) (s.ioTag n)] := by
          rw [State.eoiDescriptors, hpins, List.map_append]; rfl
        rw [hattempt, hsent, hdescriptors, List.zipWith_append (by simp [State.eoiDescriptors, hlength]),
          List.reverse_append]
        rfl
      · rw [hcall, hcalls, List.length_append]; rfl

/-- Settles O52. -/
theorem eoiAttemptsThePendingPinsInOrder : Obligations.EoiAttemptsThePendingPinsInOrder := by
  intro s t vector hinv hremap h
  obtain ⟨hlength, _⟩ := length_of_inv hinv
  rw [next_inj h]
  exact eoiVisited_attempts hremap s.record.pinCount hlength.ge

/-! Level re-arm. -/

/-- Rule R131: an accepted attempt of an unmasked level entry sets its `remoteIrr`. -/
theorem signalPending_of_accepting {s : State} {p : Nat} (hp : p < s.io.rte.length) (hunmasked : rteMasked (s.rte p) = false)
    (hlevel : rteLevel (s.rte p) = true) (hclear : rteRemoteIrr (s.rte p) = false) (hremap : s.params.remap = .identity)
    (haccept : s.answer = .accept) :
    (s.signalPending p).hookCalls = s.hookCalls + 1 ∧ (s.signalPending p).pending p = s.pending p ∧
      rteRemoteIrr ((s.signalPending p).rte p) = true := by
  have htook : (s.deliver (descriptorOf (s.rte p) (s.ioTag p))).2 = true := by
    rw [(deliver_spec _ _).2, State.remapped, hremap, haccept]; rfl
  have hio : (s.signalPending p).io = (s.setRte p (setRemoteIrr (s.rte p))).io := by
    have hset : s.accepted p = s.setRte p (setRemoteIrr (s.rte p)) := if_pos hlevel
    rw [signalPending_of_attempting hunmasked fun _ => hclear, htook, ← hset, accepted_eq]
    rfl
  refine ⟨signalPending_hookCalls hunmasked fun _ => hclear, ?_, ?_⟩
  · rw [State.pending, hio]; rfl
  · rw [State.rte, hio, setRte_io_rte]
    simp [hp]

theorem assertIoPin_of_suppressed {s : State} {p : Nat} (hunmasked : rteMasked (s.rte p) = false)
    (hlevel : rteLevel (s.rte p) = true) (hirr : rteRemoteIrr (s.rte p) = true) :
    (s.assertIoPin p).hookCalls = s.hookCalls ∧ (s.assertIoPin p).ioOut = s.ioOut ∧
      (s.assertIoPin p).rte p = s.rte p := by
  cases hpending : s.pending p with
  | false =>
    rw [assertIoPin_of_idle hpending,
      signalPending_of_suppressed (s := (s.clearFlipFlop p).setPending p) hunmasked hlevel hirr]
    exact ⟨rfl, rfl, rfl⟩
  | true =>
    rw [assertIoPin_of_pending_level hpending hlevel,
      signalPending_of_suppressed (s := (s.clearFlipFlop p).countRedundant) hunmasked hlevel hirr]
    exact ⟨rfl, rfl, rfl⟩

/-- Rule R134: while no pin has been attempted again, the world's next answer is as before the broadcast. -/
theorem eoiVisited_answer {s : State} {vector : Byte} {n : Nat} (hn : n ≤ s.io.rte.length)
    (hquiet : ∀ q < n, s.reattempted vector q = false) :
    (s.eoiVisited vector n).hookCalls = s.hookCalls ∧ (s.eoiVisited vector n).targetScript = s.targetScript := by
  induction n with
  | zero => exact ⟨rfl, rfl⟩
  | succ n ih =>
    obtain ⟨hcalls, hscript⟩ := ih (by omega) fun q hq => hquiet q (by omega)
    cases eoiVisit s vector n hn with
    | quiet once sent calls script => exact ⟨calls.trans hcalls, script.trans hscript⟩
    | attempted again => exact absurd ((hquiet n (by omega)).symm.trans again) Bool.false_ne_true

/-- Rule R34: the bitmaps are wide enough for every variant. -/
theorem record_pinCount_le_maxPins (s : State) : s.record.pinCount ≤ maxPins := by
  rw [State.record, Params.record]
  cases s.params.variant <;> simp [IoApicVariant.record, VariantRecord.ich9, VariantRecord.i82093aa, maxPins]

/-- Rule R136: where the broadcast attempts pin `p` alone again and the target accepts, `remoteIrr` is set again. -/
theorem setEoi_of_only {s : State} {vector : Byte} {p : Nat} (hinv : s.inv = true) (hp : p < s.record.pinCount)
    (hremap : s.params.remap = .identity) (haccept : s.answer = .accept)
    (honly : ∀ q < s.record.pinCount, s.reattempted vector q = (q == p)) :
    (s.setEoi vector).hookCalls = s.hookCalls + 1 ∧ rteRemoteIrr ((s.setEoi vector).rte p) = true := by
  obtain ⟨hlength, _⟩ := length_of_inv hinv
  have hp' : p < s.io.rte.length := hlength ▸ hp
  constructor
  · obtain ⟨answers, hanswers, _, hcalls⟩ := eoiVisited_attempts (vector := vector) hremap s.record.pinCount hlength.ge
    have hone : (s.reattemptedBelow vector s.record.pinCount).length = 1 := by
      rw [State.reattemptedBelow, List.filter_congr fun q hq => honly q (List.mem_range.1 hq),
        ← List.countP_eq_length_filter]
      exact List.count_eq_one_of_mem List.nodup_range (List.mem_range.2 hp)
    exact hcalls.trans (by rw [hanswers, hone])
  · obtain ⟨hcalls, hscript⟩ := eoiVisited_answer (vector := vector) hp'.le fun q hq => by
      rw [honly q (hq.trans hp)]; exact beq_false_of_ne hq.ne
    obtain ⟨⟨hparams, _⟩, _⟩ := eoiVisited_keeps s vector p hp'.le
    have hanswer : (s.eoiVisited vector p).answer = .accept := by
      rw [← haccept, State.answer, State.answer, hcalls, hscript]
    rw [setEoi_rte hlength vector hp]
    cases eoiVisit s vector p hp' with
    | quiet once => exact absurd (once.symm.trans ((honly p hp).trans (beq_self_eq_true p))) Bool.false_ne_true
    | attempted again took attempt entry =>
      obtain ⟨_, htook, _⟩ := attempted_of_identity (hparams ▸ hremap) attempt
      rw [entry, htook, decide_eq_true hanswer]
      exact rteRemoteIrr_set _

/-- Settles O55. -/
theorem levelInterruptIsDeliveredOncePerEoi : Obligations.LevelInterruptIsDeliveredOncePerEoi := by
  intro s pin tag hinv hpin hunmasked hlevel hremap
  obtain ⟨hlength, _⟩ := length_of_inv hinv
  have hp : pin.toNat < s.io.rte.length := hlength ▸ hpin
  refine ⟨fun hidle hclear haccept => ?first, fun hirr => ?further, fun hpending haccept hother => ?eoi⟩
  case first =>
    have hpins : pin.toNat < maxPins := hpin.trans_le (record_pinCount_le_maxPins s)
    obtain ⟨hcalls, hpending, hirr⟩ := signalPending_of_accepting
      (s := ((s.mergeIoTag pin.toNat tag).clearFlipFlop pin.toNat).setPending pin.toNat) hp hunmasked hlevel hclear hremap
      haccept
    refine ⟨_, exec_ioSetline_high hpin tag, ?_⟩
    rw [assertIoPin_of_idle (s := s.mergeIoTag pin.toNat tag) hidle]
    exact ⟨hcalls, hpending.trans (by rw [setPending_pending _ _ _ hpins, decide_eq_true rfl, Bool.true_or]), hirr⟩
  case further =>
    obtain ⟨hcalls, hsent, hrte⟩ := assertIoPin_of_suppressed (s := s.mergeIoTag pin.toNat tag) hunmasked hlevel hirr
    exact ⟨_, exec_ioSetline_high hpin tag, hcalls, hsent, (congrArg rteRemoteIrr hrte).trans hirr⟩
  case eoi =>
    refine ⟨_, rfl, setEoi_of_only hinv hpin hremap haccept fun q hq => ?_⟩
    rw [Bool.eq_iff_iff, reattempted_iff, beq_iff_eq]
    constructor
    · rintro ⟨⟨hqlevel, hqvector⟩, hqpending, _⟩
      by_contra hne
      exact hother q hq hne hqpending hqlevel hqvector
    · rintro rfl
      exact ⟨⟨hlevel, rfl⟩, hpending, hunmasked⟩

end Sys2Proof.Machine
end

section
/-! What an operation can do to the read-only bits of an entry (rules R28, R35, R122, R134), and when it makes no attempt
(rule R35). -/

namespace Sys2Proof.Machine

/-- From `a` to `b`, `deliveryStatus` stays and `remoteIrr` is not cleared. -/
def ReadOnlyKept (a b : Entry) : Prop :=
  rteDeliveryStatus b = rteDeliveryStatus a ∧ (rteRemoteIrr a = true → rteRemoteIrr b = true)

namespace ReadOnlyKept

theorem refl (a : Entry) : ReadOnlyKept a a := ⟨rfl, id⟩

theorem trans {a b c : Entry} (h : ReadOnlyKept a b) (h' : ReadOnlyKept b c) : ReadOnlyKept a c := by
  obtain ⟨hstatus, hirr⟩ := h
  obtain ⟨hstatus', hirr'⟩ := h'
  exact ⟨hstatus'.trans hstatus, hirr' ∘ hirr⟩

/-- Rule R131: a delivery decision only ever sets `remoteIrr`. -/
theorem signalPending (s : State) (p q : Nat) : ReadOnlyKept (s.rte q) ((s.signalPending p).rte q) := by
  by_cases hq : q = p
  · subst hq
    rcases signalPending_rte_self s q with hsame | ⟨hset, _⟩
    · rw [hsame]; exact refl _
    · obtain ⟨_, _, _, hstatus, _⟩ := fields_setRemoteIrr (s.rte q)
      rw [hset]; exact ⟨hstatus, fun _ => rteRemoteIrr_set _⟩
  · obtain ⟨_, _, _, _, _, _, hother⟩ := signalPending_keeps s p
    rw [hother q hq]; exact refl _

theorem writeRteHalf {s : State} (h : s.inv = true) (p q : Nat) (high : Bool) (value : Word) :
    ReadOnlyKept (s.rte q) ((s.writeRteHalf p high value).rte q) := by
  obtain ⟨hstatus, hirr⟩ := written_readOnly (keepsReadOnlyBits_of_inv h) p q high value
  have hwritten : ReadOnlyKept (s.rte q) ((s.written p high value).rte q) := ⟨hstatus, hirr.trans⟩
  cases hpending : s.pending p with
  | false => rw [writeRteHalf_of_idle hpending]; exact hwritten
  | true => rw [writeRteHalf_of_pending hpending]; exact hwritten.trans (.signalPending ..)

theorem assertIoPin (s : State) (p q : Nat) : ReadOnlyKept (s.rte q) ((s.assertIoPin p).rte q) := by
  cases hpending : s.pending p with
  | false => rw [assertIoPin_of_idle hpending]; exact signalPending ((s.clearFlipFlop p).setPending p) p q
  | true =>
    cases hlevel : rteLevel (s.rte p) with
    | false => rw [assertIoPin_of_pending_edge hpending hlevel]; exact refl _
    | true =>
      rw [assertIoPin_of_pending_level hpending hlevel]; exact signalPending (s.clearFlipFlop p).countRedundant p q

theorem flipFlopIoPin (s : State) (p q : Nat) : ReadOnlyKept (s.rte q) ((s.flipFlopIoPin p).rte q) :=
  signalPending ((s.setFlipFlop p).setPending p) p q

/-- Rule R133: a line call, in its four cases. -/
theorem of_exec_ioSetline {s t : State} {pin : Byte} {level : IoLevel} {tag : Tag} {isFlipFlop : Bool}
    (h : exec (.ioSetline pin level tag isFlipFlop) s = .next t) (q : Nat) : ReadOnlyKept (s.rte q) (t.rte q) := by
  by_cases hpin : s.record.pinCount ≤ pin.toNat
  · rw [exec_ioSetline_of_missing hpin] at h; rw [next_inj h]; exact refl _
  · have hpin := Nat.lt_of_not_le hpin
    cases isFlipFlop with
    | true => rw [exec_ioSetline_flipFlop hpin] at h; rw [next_inj h]; exact flipFlopIoPin (s.mergeIoTag pin.toNat tag) _ q
    | false =>
      cases level with
      | low => rw [exec_ioSetline_low hpin] at h; rw [next_inj h]; exact refl _
      | high => rw [exec_ioSetline_high hpin] at h; rw [next_inj h]; exact assertIoPin (s.mergeIoTag pin.toNat tag) _ q

/-- Every operation but the device reset and an EOI broadcast. -/
theorem of_exec {i : Instr} {s t : State} (hinv : s.inv = true) (h : exec i s = .next t) (hreset : i ≠ .reset)
    (heoi : eoiVector i = none) (q : Nat) : ReadOnlyKept (s.rte q) (t.rte q) := by
  cases hpic : i.onPic with
  | true =>
    obtain ⟨_, hio, _⟩ := picFrame_of_exec i s t h hpic
    rw [State.rte, State.rte, hio]; exact refl _
  | false =>
    cases i with
    | rteLoWr | rteHiWr => rw [next_inj h]; exact writeRteHalf hinv ..
    | ioSetline => exact of_exec_ioSetline h q
    | ioSendmsi => rw [next_inj h, deliver_rte]; exact refl _
    | mmioIdxRd | mmioIdxWr | idRd | idWr | verRd | verWr | arbRd | arbWr | rteLoRd | rteHiRd | unusedRd | unusedWr |
        mmioOtherRd | mmioOtherWr => rw [next_inj h]; exact refl _
    | mmioEoiWr | ioSeteoi => cases heoi
    | reset => exact absurd rfl hreset
    | _ => cases hpic

end ReadOnlyKept

/-- Rules R126, R134: the operations that are an EOI broadcast. -/
theorem exec_of_eoiVector {i : Instr} {vector : Byte} (h : eoiVector i = some vector) (s : State) :
    exec i s = .next (s.setEoi vector) := by
  cases i with
  | mmioEoiWr | ioSeteoi => cases h; rfl
  | _ => cases h

/-- Rule R134: a broadcast leaves a matching entry with `remoteIrr` cleared or set, and nothing else of it changed. -/
theorem setEoi_rte_of_matched {s : State} (hlength : s.io.rte.length = s.record.pinCount) {vector : Byte} {p : Nat}
    (hp : p < s.record.pinCount) (hmatch : s.EoiMatches vector p) :
    (s.setEoi vector).rte p = clearRemoteIrr (s.rte p) ∨ (s.setEoi vector).rte p = setRemoteIrr (s.rte p) := by
  rw [setEoi_rte hlength vector hp]
  cases eoiVisit s vector p (hlength ▸ hp) with
  | quiet once sent calls script kept cleared => exact .inl (cleared hmatch)
  | attempted again took attempt entry =>
    cases took
    · exact .inl entry
    · exact .inr entry

theorem rteDeliveryStatus_setEoi {s : State} (hlength : s.io.rte.length = s.record.pinCount) (vector : Byte) (p : Nat) :
    rteDeliveryStatus ((s.setEoi vector).rte p) = rteDeliveryStatus (s.rte p) := by
  by_cases hmatch : p < s.record.pinCount ∧ s.EoiMatches vector p
  · obtain ⟨hp, hmatch⟩ := hmatch
    obtain ⟨_, _, _, hcleared, _⟩ := fields_clearRemoteIrr (s.rte p)
    obtain ⟨_, _, _, hset, _⟩ := fields_setRemoteIrr (s.rte p)
    rcases setEoi_rte_of_matched hlength hp hmatch with h | h <;> rw [h]
    · exact hcleared
    · exact hset
  · rw [setEoi_rte_of_unmatched hlength vector hmatch]

/-- Settles O18: a broadcast clears only matching entries, and no other operation but the reset clears any. -/
theorem remoteIrrIsClearedOnlyByAMatchingEoi : Obligations.RemoteIrrIsClearedOnlyByAMatchingEoi := by
  intro i s t p hinv h hbefore hafter
  by_cases hreset : i = .reset
  · exact .inl hreset
  right
  cases heoi : eoiVector i with
  | none =>
    obtain ⟨_, hirr⟩ := ReadOnlyKept.of_exec hinv h hreset heoi p
    exact absurd (hafter.symm.trans (hirr hbefore)) Bool.false_ne_true
  | some vector =>
    obtain ⟨hlength, _⟩ := length_of_inv hinv
    by_cases hmatch : p < s.record.pinCount ∧ s.EoiMatches vector p
    · obtain ⟨_, hlevel, hvector⟩ := hmatch
      exact ⟨hlevel, by rw [hvector]⟩
    · rw [next_inj ((exec_of_eoiVector heoi s).symm.trans h), setEoi_rte_of_unmatched hlength vector hmatch] at hafter
      exact absurd (hafter.symm.trans hbefore) Bool.false_ne_true

/-- Settles O19. -/
theorem deliveryStatusNeverChanges : Obligations.DeliveryStatusNeverChanges := by
  intro i s t p hinv h hreset
  cases heoi : eoiVector i with
  | none =>
    obtain ⟨hstatus, _⟩ := ReadOnlyKept.of_exec hinv h hreset heoi p
    exact hstatus
  | some vector =>
    obtain ⟨hlength, _⟩ := length_of_inv hinv
    rw [next_inj ((exec_of_eoiVector heoi s).symm.trans h)]
    exact rteDeliveryStatus_setEoi hlength vector p

/-! No attempt on masked entries. -/

theorem assertIoPin_hookCalls_of_masked {s : State} {p : Nat} (hmasked : rteMasked (s.rte p) = true) :
    (s.assertIoPin p).hookCalls = s.hookCalls := by
  cases hpending : s.pending p with
  | false => rw [assertIoPin_of_idle hpending, signalPending_of_masked (s := (s.clearFlipFlop p).setPending p) hmasked]; rfl
  | true =>
    cases hlevel : rteLevel (s.rte p) with
    | false => rw [assertIoPin_of_pending_edge hpending hlevel]; rfl
    | true =>
      rw [assertIoPin_of_pending_level hpending hlevel,
        signalPending_of_masked (s := (s.clearFlipFlop p).countRedundant) hmasked]
      rfl

theorem flipFlopIoPin_hookCalls_of_masked {s : State} {p : Nat} (hmasked : rteMasked (s.rte p) = true) :
    (s.flipFlopIoPin p).hookCalls = s.hookCalls := by
  rw [State.flipFlopIoPin, signalPending_of_masked (s := (s.setFlipFlop p).setPending p) hmasked]; rfl

theorem ioSetline_hookCalls_of_masked {s t : State}
    (hmasked : ∀ p, p < s.record.pinCount → rteMasked (s.rte p) = true) {pin : Byte} {level : IoLevel} {tag : Tag}
    {isFlipFlop : Bool} (h : exec (.ioSetline pin level tag isFlipFlop) s = .next t) : t.hookCalls = s.hookCalls := by
  by_cases hpin : s.record.pinCount ≤ pin.toNat
  · rw [exec_ioSetline_of_missing hpin] at h; rw [next_inj h]; rfl
  · have hpin := Nat.lt_of_not_le hpin
    cases isFlipFlop with
    | true =>
      rw [exec_ioSetline_flipFlop hpin] at h; rw [next_inj h]
      exact flipFlopIoPin_hookCalls_of_masked (s := s.mergeIoTag pin.toNat tag) (hmasked _ hpin)
    | false =>
      cases level with
      | low => rw [exec_ioSetline_low hpin] at h; rw [next_inj h]; rfl
      | high =>
        rw [exec_ioSetline_high hpin] at h; rw [next_inj h]
        exact assertIoPin_hookCalls_of_masked (s := s.mergeIoTag pin.toNat tag) (hmasked _ hpin)

/-- Rule R122: a write of the high word leaves the mask bit alone. -/
theorem rteMasked_written_high (s : State) (p : Nat) (value : Word) :
    rteMasked ((s.written p true value).rte p) = rteMasked (s.rte p) := by
  rw [State.written, setRte_rte]
  split
  · rw [rteMasked, writtenEntry_high_getLsbD _ _ _ _ (by decide), if_neg fun h => absurd h.1 (by decide)]; rfl
  · rfl

section
variable {s : State} (hinv : s.inv = true) (hmasked : ∀ p, p < s.record.pinCount → rteMasked (s.rte p) = true)
include hinv hmasked

theorem writeRteHalf_high_hookCalls_of_masked (p : Nat) (value : Word) :
    (s.writeRteHalf p true value).hookCalls = s.hookCalls := by
  cases hpending : s.pending p with
  | false => rw [writeRteHalf_of_idle hpending]; rfl
  | true =>
    have hp := hmasked p (lt_pinCount_of_pending hinv hpending)
    rw [writeRteHalf_of_pending hpending,
      signalPending_of_masked ((rteMasked_written_high s p value).trans hp)]
    rfl

theorem setEoi_hookCalls_of_masked (vector : Byte) : (s.setEoi vector).hookCalls = s.hookCalls := by
  obtain ⟨hlength, _⟩ := length_of_inv hinv
  obtain ⟨hcalls, _⟩ := eoiVisited_answer (vector := vector) hlength.ge fun q hq => by
    rw [State.reattempted, hmasked q hq]; exact Bool.and_false _
  exact hcalls

end

/-- Settles O20. -/
theorem noAttemptWhileEveryEntryIsMasked : Obligations.NoAttemptWhileEveryEntryIsMasked := by
  intro i s t hinv hmasked hmessage hlowWord h
  cases hpic : i.onPic with
  | true =>
    obtain ⟨_, _, _, hcalls, _⟩ := picFrame_of_exec i s t h hpic
    exact hcalls
  | false =>
    cases i with
    | rteLoWr pin value => exact absurd rfl (hlowWord pin value)
    | ioSendmsi fields tag => exact absurd rfl (hmessage fields tag)
    | rteHiWr pin value => rw [next_inj h]; exact writeRteHalf_high_hookCalls_of_masked hinv hmasked pin value
    | mmioEoiWr | ioSeteoi => rw [next_inj h]; exact setEoi_hookCalls_of_masked hinv hmasked _
    | ioSetline => exact ioSetline_hookCalls_of_masked hmasked h
    | reset => rw [next_inj h, State.deviceReset, resetPair_eq]
    | mmioIdxRd | mmioIdxWr | idRd | idWr | verRd | verWr | arbRd | arbWr | rteLoRd | rteHiRd | unusedRd | unusedWr |
        mmioOtherRd | mmioOtherWr => obtain rfl := next_inj h; rfl
    | _ => cases hpic

end Sys2Proof.Machine
end

section
/-! The step (rules R48, R140, R155, R170, R171): what it does with each move of the world, and from that the invariant and
the parameters that every step keeps. -/

namespace Sys2Proof.Machine

/-! One move of the world. -/

theorem step_of_idle {s : State} (h : s.inputs = []) : step s = .next s := by
  rw [step, State.fetch, h]

theorem step_of_inputs {s : State} {i : Input} {rest : List Input} (h : s.inputs = i :: rest) :
    step s = ({ s with inputs := rest } : State).applyInput i := by
  rw [step, State.fetch, h]

/-- Rule R48: an access is decoded in the state it is applied to, and decoding does not read the moves still to come. -/
theorem apply_of_decode_ok {s : State} {t : Transaction} {i : Instr} (h : decode s.decodeMode t = .ok i) :
    s.apply t = exec i s := by
  rw [State.apply, h]

theorem apply_of_decode_error {s : State} {t : Transaction} {why : Reject} (h : decode s.decodeMode t = .error why) :
    s.apply t = .refused (.access why) := by
  rw [State.apply, h]

/-- Settles O4. -/
theorem stepRunsTheDecodedOperation : Obligations.StepRunsTheDecodedOperation := by
  intro s t rest i h hdecode
  exact (step_of_inputs h).trans (apply_of_decode_ok (s := { s with inputs := rest }) hdecode)

/-- Settles O5. -/
theorem stepWithNothingToApplyChangesNothing : Obligations.StepWithNothingToApplyChangesNothing := fun _ => step_of_idle

/-! Refusals. -/

theorem step_of_decode_error {s : State} {t : Transaction} {rest : List Input} {why : Reject}
    (h : s.inputs = .operation t :: rest) (hdecode : decode s.decodeMode t = .error why) :
    step s = .refused (.access why) :=
  (step_of_inputs h).trans (apply_of_decode_error (s := { s with inputs := rest }) hdecode)

/-- Rule R43: an offset is aligned when its low two bits are 0. -/
theorem alignedWord_eq_false {off : BitVec 12} {size : Nat} (h : ¬(size = 4 ∧ off.toNat % 4 = 0)) :
    alignedWord off size = false := by
  have hlow : off.extractLsb' 0 2 = 0 ↔ off.toNat % 4 = 0 := by
    rw [← BitVec.toNat_inj, BitVec.extractLsb'_toNat, Nat.shiftRight_zero]; rfl
  rw [← Bool.not_eq_true, alignedWord_eq_true_iff, hlow]
  exact h

section
variable {m : DecodeMode} (hm : m.params.wellFormed = true)
include hm

theorem decode_mmioRead_of_misfit {off : BitVec 12} {size : Nat} (h : ¬(size = 4 ∧ off.toNat % 4 = 0)) :
    decode m (.mmioRead (m.params.ioapicBase + off.setWidth 64) size) = .error .mmioAccessNotAlignedWord := by
  simp only [decode, pageOffset_add _ hm, alignedWord_eq_false h, Bool.false_eq_true, if_false]

theorem decode_mmioWrite_of_misfit {off : BitVec 12} {bytes : List Byte} (h : ¬(bytes.length = 4 ∧ off.toNat % 4 = 0)) :
    decode m (.mmioWrite (m.params.ioapicBase + off.setWidth 64) bytes) = .error .mmioAccessNotAlignedWord := by
  simp only [decode, pageOffset_add _ hm, alignedWord_eq_false h, Bool.false_eq_true, if_false]

theorem decode_portRead_of_wide {role : PortRole} {size : Nat} (h : size ≠ 1) :
    decode m (.portRead (portOf m.params role) size) = .error .portAccessNotByte := by
  simp only [decode, portRole_portOf _ hm, if_neg h]

theorem decode_portWrite_of_wide {role : PortRole} {bytes : List Byte} (h : bytes.length ≠ 1) :
    decode m (.portWrite (portOf m.params role) bytes) = .error .portAccessNotByte := by
  simp only [decode, portRole_portOf _ hm]
  split
  · exact absurd rfl h
  · rfl

end

/-- Settles O6: one lemma about the decoder for each access without a meaning. -/
theorem stepRefusesWhatHasNoMeaning : Obligations.StepRefusesWhatHasNoMeaning := by
  intro s rest hparams
  exact ⟨fun _ _ h hmisfit => step_of_decode_error h (decode_mmioRead_of_misfit hparams hmisfit),
    fun _ _ h hmisfit => step_of_decode_error h (decode_mmioWrite_of_misfit hparams hmisfit),
    fun _ _ h hwide => step_of_decode_error h (decode_portRead_of_wide hparams hwide),
    fun _ _ h hwide => step_of_decode_error h (decode_portWrite_of_wide hparams hwide),
    fun _ h => step_of_inputs h⟩

/-! The restore. -/

theorem elcrInMask_iff (ch : PicChannel) : ch.elcrInMask = true ↔ ch.elcr &&& ~~~ch.elcrMask = 0 := beq_iff_eq

theorem restore_of_admits {s : State} {img : Image} (hmaster : img.pair.master.elcrInMask = true)
    (hslave : img.pair.slave.elcrInMask = true) (hadmits : s.admits img = true) :
    s.restore img = .next { s with pair := img.pair, io := img.io } := by
  simp only [State.restore, hmaster, hslave, hadmits]; rfl

theorem restore_of_elcr_outside {s : State} {img : Image}
    (h : ¬(img.pair.master.elcrInMask = true ∧ img.pair.slave.elcrInMask = true)) :
    s.restore img = .refused .restoredElcrOutsideMask := by
  rw [← Bool.and_eq_true, Bool.not_eq_true] at h
  simp only [State.restore, h]; rfl

/-- Rule R171: a restore that completes had an image that satisfies rule R21 and is a value of the data model. -/
theorem restore_eq_next {s t : State} {img : Image} (h : s.restore img = .next t) :
    img.pair.master.elcrInMask = true ∧ img.pair.slave.elcrInMask = true ∧ s.admits img = true ∧
      t = { s with pair := img.pair, io := img.io } := by
  by_cases helcr : img.pair.master.elcrInMask = true ∧ img.pair.slave.elcrInMask = true
  · obtain ⟨hmaster, hslave⟩ := helcr
    cases hadmits : s.admits img with
    | true => rw [restore_of_admits hmaster hslave hadmits] at h; exact ⟨hmaster, hslave, rfl, next_inj h⟩
    | false => simp [State.restore, hmaster, hslave, hadmits] at h
  · rw [restore_of_elcr_outside helcr] at h; cases h

theorem admits_iff (s : State) (img : Image) : s.admits img = true ↔
    img.pair.master.vectorBaseAligned = true ∧ img.pair.slave.vectorBaseAligned = true ∧
      img.pair.master.elcrMask = s.pair.master.elcrMask ∧ img.pair.slave.elcrMask = s.pair.slave.elcrMask ∧
      img.io.fits s.record = true := by
  simp only [State.admits, Bool.and_eq_true, beq_iff_eq, and_assoc]

/-- Settles O8. -/
theorem restoreWritesTheImageBackUnchanged : Obligations.RestoreWritesTheImageBackUnchanged := by
  intro s img rest h
  rw [step_of_inputs h]
  refine ⟨fun hmaster hslave hadmits => ?_, fun houtside => restore_of_elcr_outside ?_⟩
  · exact restore_of_admits ((elcrInMask_iff _).2 hmaster) ((elcrInMask_iff _).2 hslave) hadmits
  · rw [elcrInMask_iff, elcrInMask_iff, not_and_or]; exact houtside

/-- Settles O9: the invariant of the saving block is what makes its image a value of the restoring block's data model. -/
theorem restoreOfASaveGivesTheSavedRegisters : Obligations.RestoreOfASaveGivesTheSavedRegisters := by
  intro s u rest hinv hparams hmasterMask hslaveMask h
  obtain ⟨_, hmaster, hslave, hmasterBase, hslaveBase, hfits⟩ := (inv_iff s).1 hinv
  have hrecord : u.record = s.record := by rw [State.record, State.record, hparams]
  rw [step_of_inputs h]
  refine restore_of_admits hmaster hslave ((admits_iff _ _).2 ?_)
  refine ⟨hmasterBase, hslaveBase, hmasterMask.symm, hslaveMask.symm, ?_⟩
  exact (congrArg (IoApic.fits · s.io) hrecord).trans hfits

/-! What every step keeps. -/

/-- All that a step can do (rule R170): nothing, an operation, a scripted answer or a restore. -/
inductive StepChange (s t : State) : Prop where
  | idle (same : t = s)
  | ran (i : Instr) (rest : List Input) (ran : exec i { s with inputs := rest } = .next t)
  | scripted (pair : t.pair = s.pair) (io : t.io = s.io) (params : t.params = s.params)
  | restored (img : Image) (master : img.pair.master.elcrInMask = true) (slave : img.pair.slave.elcrInMask = true)
      (admits : s.admits img = true) (pair : t.pair = img.pair) (io : t.io = img.io) (params : t.params = s.params)

theorem stepChange_of_step {s t : State} (h : step s = .next t) : StepChange s t := by
  cases hinputs : s.inputs with
  | nil => rw [step_of_idle hinputs] at h; exact .idle (next_inj h)
  | cons i rest =>
    cases i with
    | operation tr =>
      have h : ({ s with inputs := rest } : State).apply tr = .next t := (step_of_inputs hinputs).symm.trans h
      cases hdecode : decode s.decodeMode tr with
      | ok i => exact .ran i rest ((apply_of_decode_ok (s := { s with inputs := rest }) hdecode).symm.trans h)
      | error why =>
        cases (apply_of_decode_error (s := { s with inputs := rest }) hdecode).symm.trans h
    | reentrant => rw [step_of_inputs hinputs] at h; cases h
    | target a => rw [step_of_inputs hinputs] at h; rw [next_inj h]; exact .scripted rfl rfl rfl
    | restore img =>
      rw [step_of_inputs hinputs] at h
      obtain ⟨hmaster, hslave, hadmits, rfl⟩ := restore_eq_next h
      exact .restored img hmaster hslave hadmits rfl rfl rfl

theorem params_of_exec {i : Instr} {s t : State} (h : exec i s = .next t) : t.params = s.params := by
  by_cases hreset : i = .reset
  · subst hreset; rw [next_inj h, State.deviceReset, resetPair_eq]
  · cases hpic : i.onPic with
    | true => obtain ⟨hparams, _⟩ := picFrame_of_exec i s t h hpic; exact hparams
    | false => obtain ⟨hparams, _⟩ := ioFrame_of_exec i s t h hpic hreset; exact hparams

/-- Settles O12. -/
theorem noStepChangesAParameter : Obligations.NoStepChangesAParameter := by
  intro s t h
  cases stepChange_of_step h with
  | idle same => rw [same]; exact ⟨rfl, rfl, rfl⟩
  | ran i rest ran =>
    have hparams := params_of_exec ran
    have hmaster := channelChange_of_exec ran .master
    have hslave := channelChange_of_exec ran .slave
    exact ⟨hparams, hmaster.elcrMask, hslave.elcrMask⟩
  | scripted pair io params => rw [pair, params]; exact ⟨rfl, rfl, rfl⟩
  | restored img _ _ admits pair _ params =>
    obtain ⟨_, _, hmaster, hslave, _⟩ := (admits_iff s img).1 admits
    rw [pair]; exact ⟨params, hmaster, hslave⟩

/-- Rule R26: every operation keeps the widths of the I/O APIC. -/
theorem fits_of_exec_any {i : Instr} {s t : State} (hfits : s.io.fits s.record = true) (h : exec i s = .next t) :
    t.io.fits t.record = true := by
  have hrecord : t.record = s.record := congrArg Params.record (params_of_exec h)
  rw [hrecord]
  by_cases hreset : i = .reset
  · subst hreset; rw [next_inj h]; exact fits_afterReset s.params
  · cases hpic : i.onPic with
    | true => obtain ⟨_, hio, _⟩ := picFrame_of_exec i s t h hpic; rw [hio]; exact hfits
    | false => exact fits_of_exec i s t hfits h hpic hreset

namespace ChannelChange
variable {c : ChannelId} {i : Instr} {a b : PicChannel}

/-- Rule R21: the one write of `elcr` masks its value. -/
theorem elcrInMask (h : ChannelChange c i a b) (ha : a.elcrInMask = true) : b.elcrInMask = true := by
  rw [elcrInMask_iff] at ha ⊢
  rw [h.elcrMask]
  rcases h.elcr with hkept | ⟨v, _, hwritten⟩
  · rw [hkept]; exact ha
  · rw [hwritten, BitVec.and_assoc]; simp

/-- Rule R20: the writes of `vectorBase` keep its low three bits 0. -/
theorem vectorBaseAligned (h : ChannelChange c i a b) (ha : a.vectorBaseAligned = true) : b.vectorBaseAligned = true := by
  simp only [PicChannel.vectorBaseAligned] at ha ⊢
  rcases h.vectorBase with hkept | ⟨_, hcleared⟩ | ⟨v, _, hwritten⟩
  · rw [hkept]; exact ha
  · rw [hcleared]; rfl
  · rw [hwritten, BitVec.and_assoc]; simp

end ChannelChange

/-- Rules R20, R21, R26, R34: every operation keeps the invariant. -/
theorem inv_of_exec {i : Instr} {s t : State} (hinv : s.inv = true) (h : exec i s = .next t) : t.inv = true := by
  obtain ⟨hparams, hmaster, hslave, hmasterBase, hslaveBase, hfits⟩ := (inv_iff s).1 hinv
  have hm := channelChange_of_exec h .master
  have hs := channelChange_of_exec h .slave
  exact (inv_iff t).2 ⟨(congrArg Params.wellFormed (params_of_exec h)).trans hparams, hm.elcrInMask hmaster,
    hs.elcrInMask hslave, hm.vectorBaseAligned hmasterBase, hs.vectorBaseAligned hslaveBase, fits_of_exec_any hfits h⟩

/-- The invariant reads the parameters, the pair and the I/O APIC. -/
theorem inv_congr {s t : State} (hparams : t.params = s.params) (hpair : t.pair = s.pair) (hio : t.io = s.io) :
    t.inv = s.inv := by
  simp only [State.inv, State.record, hparams, hpair, hio]

/-- Settles O11. -/
theorem everyStepKeepsTheInvariant : Obligations.EveryStepKeepsTheInvariant := by
  intro s t hinv h
  cases stepChange_of_step h with
  | idle same => rw [same]; exact hinv
  | ran i rest ran => exact inv_of_exec (s := { s with inputs := rest }) hinv ran
  | scripted pair io params => rw [inv_congr params pair io]; exact hinv
  | restored img master slave admits pair io params =>
    obtain ⟨hparams, _⟩ := (inv_iff s).1 hinv
    obtain ⟨hmasterBase, hslaveBase, _, _, hfits⟩ := (admits_iff s img).1 admits
    rw [inv_iff, State.record, pair, io, params]
    exact ⟨hparams, master, slave, hmasterBase, hslaveBase, hfits⟩

/-- Settles O10: one closed state, evaluated. -/
theorem resetMeetsTheInvariantAndIsSettled : Obligations.ResetMeetsTheInvariantAndIsSettled := by
  unfold Obligations.ResetMeetsTheInvariantAndIsSettled
  decide

end Sys2Proof.Machine
end
